-- ==== Sys2Proof/Word.lean ====
section
/-! DEFINITION. The word types of the C4 (R4, R14), the four engines, and one value per engine. -/

namespace Sys2Proof

/-- A 64-bit scalar, CSR or address (R14, R65). -/
abbrev Word := BitVec 64
/-- A lane of a vector register or accumulator (R14). -/
abbrev Lane := BitVec 32
/-- A byte of memory (R4). -/
abbrev Byte := BitVec 8

/-- The four engines of a task, in the ring order F, M, V, W (R29); number e of R22 is the order here. -/
inductive Eng where
  | f | m | v | w
  deriving DecidableEq, Repr

/-- Engine number e (R22). -/
def Eng.num : Eng → Nat
  | .f => 0 | .m => 1 | .v => 2 | .w => 3

/-- The engine after this one in the ring (R29). -/
def Eng.after : Eng → Eng
  | .f => .m | .m => .v | .v => .w | .w => .f

/-- The engine before this one in the ring (R29). -/
def Eng.before : Eng → Eng
  | .f => .w | .m => .f | .v => .m | .w => .v

/-- The engine of number `n`; numbers from 4 up do not occur and give W. -/
def Eng.ofNum : Nat → Eng
  | 0 => .f | 1 => .m | 2 => .v | _ => .w

/-- The four engines in ascending number. -/
def Eng.all : List Eng := [.f, .m, .v, .w]

/-- One value for each engine. -/
structure Quad (α : Type) where
  f : α
  m : α
  v : α
  w : α
  deriving DecidableEq, Repr

/-- The same value for every engine. -/
def Quad.const {α : Type} (x : α) : Quad α := ⟨x, x, x, x⟩

/-- The value of engine `e`. -/
def Quad.get {α : Type} (q : Quad α) : Eng → α
  | .f => q.f | .m => q.m | .v => q.v | .w => q.w

/-- Replaces the value of engine `e`. -/
def Quad.set {α : Type} (q : Quad α) (e : Eng) (x : α) : Quad α :=
  match e with
  | .f => { q with f := x }
  | .m => { q with m := x }
  | .v => { q with v := x }
  | .w => { q with w := x }

/-- Applies `g` to the value of every engine. -/
def Quad.map {α β : Type} (g : α → β) (q : Quad α) : Quad β := ⟨g q.f, g q.m, g q.v, g q.w⟩

/-- The four values in ascending engine number. -/
def Quad.toList {α : Type} (q : Quad α) : List α := [q.f, q.m, q.v, q.w]

/-- A finite map from numbers to values: pairs with rising keys. A key that is not listed has the default value of the
map, and no listed value equals it. The operations stand in Sys2Proof/Machine/Sparse.lean. -/
abbrev Sparse (α : Type) := List (Nat × α)

end Sys2Proof
end

