-- ==== Sys2Proof/Config.lean ====
section
/-! DEFINITION. Figures of the module (R9 to R11, R25) and the free values: opaque constants for what the spec leaves
open. Nothing can evaluate a free value or prove a value of it. -/

namespace Sys2Proof.Config

/-- A free choice (log 2): the `n`-th choice the machine draws, a number the user reduces by the number of outcomes.
It stands for every open outcome of the closed sets of R8: which maker's update wins at a pop (R61), an old or a new
mapping (R372). -/
opaque freeChoice : Nat → Nat

/-- A free value where an interval computation of a correctly rounded function (R234) has used up its precision
(log 3): the rounded code, from the function's number and the operand. -/
opaque freeRounded : Nat → Nat → Nat

/-- The cycles of CCNT that pass during the machine's `n`-th turn (log 6): the model counts no cycles, so each is free. -/
opaque elapsed : Nat → Nat

/-- The source code and operands of a device record whose kind-11 numbers the spec does not give (R429): of event `n`, and
its operand `i` from the event's own number (log 16). -/
opaque sourceCode : Nat → Nat
opaque sourceOperand : Nat → Nat → Nat → Nat

/-- The fused 32-byte value from which the identity key is derived (R387); no agent can read it (log 9). -/
opaque fusedSeed : Nat

/-- The fused minimum security version (R385; log 9). -/
opaque fusedVersion : Nat

/-- The fused SHA-512 digest of the public key that verifies firmware images (R385; log 9). -/
opaque fusedKeyDigest : List Byte

/-- Cores (R9). -/
def cores : Nat := 256
/-- Stack engines (R9, R11). -/
def stackEngines : Nat := 192
/-- Flash engines (R9). -/
def flashEngines : Nat := 16
/-- Control cores of the hub die (R9). -/
def controlCores : Nat := 20
/-- L2 slices (R9). -/
def slices : Nat := 192
/-- DRAM stacks (R9). -/
def dramStacks : Nat := 12
/-- Channels of a stack (R11). -/
def channelsPerStack : Nat := 64
/-- Banks of a channel (R11). -/
def banks : Nat := 32
/-- Scratchpad of a unit in bits: sixteen banks of 2^21 (R14, R164). -/
def padBits : Nat := 33554432
/-- Bits of one scratchpad bank (R145). -/
def bankBits : Nat := 2097152
/-- Bytes of one bank (R186). -/
def bankBytes : Nat := 262144
/-- Weight store of a unit in bits (R164). -/
def wstBits : Nat := 100663296
/-- Slabs of the weight store (R10). -/
def slabs : Nat := 1024
/-- Bytes of one slab (R10). -/
def slabBytes : Nat := 12288
/-- Virtual addresses in use lie below 2^58 (R25, R367). -/
def vaLimit : Nat := 288230376151711744
/-- Largest number of commands of a task in a superstep (R166). -/
def commandLimit : Nat := 1024
/-- Records a queue holds (R259). -/
def queueDepth : Nat := 256
/-- Cycles of a period (R270). -/
def periodCycles : Nat := 180000

end Sys2Proof.Config
end

