-- ==== Sys2Proof/Syntax.lean ====
section
/-! DEFINITION. The instructions and events of spec/opcode_table.json, one constructor per row. The first 183 rows are
instructions with words (R26 to R39); the rows from SKIP_WORD on are steps of the device that no word encodes: what
happens in them that comes from outside (a host access, a flit, a firmware write, an engine's report) is an argument. -/

namespace Sys2Proof

/-- A scalar or vector register number, 0 to 31 (R38). -/
abbrev Reg := Fin 32

/-- The conditions of CMP and BRC (R71). Code 7 is reserved. -/
inductive Cond where
  | eq | ne | lt | ge | ltu | geu | tst
  deriving DecidableEq, Repr

/-- The width code of the pointer instructions (R74): the element width in bits. -/
inductive WCode where
  | w1 | w3 | w4 | w6 | w8 | w16 | w32 | w64
  deriving DecidableEq, Repr

/-- The type codes in the order 0 to 15 (R176). -/
inductive Ty where
  | f32 | bf16 | f16 | i32 | n32 | i16 | n16 | i8 | n8 | mk8 | mk6 | mk4 | mk3 | i64 | n64 | b1
  deriving DecidableEq, Repr

/-- The sub-causes of an illegal-instruction fault (R40). -/
inductive IllSub where
  | reservedTag | strayContinuation | tokenBitsOnX | shortWord | malformedContinuation | unassignedOp | reservedField
  deriving DecidableEq, Repr

/-- The token bits of word 0 (R26). -/
structure Toks where
  /-- pop from the FIFO fed by the engine before -/
  wb : Bool
  /-- pop from the FIFO fed by the engine after -/
  wa : Bool
  /-- push to the engine before -/
  sb : Bool
  /-- push to the engine after -/
  sa : Bool
  deriving DecidableEq, Repr

/-- The fields of an M or V instruction: word 0 in format VW (R35) and vector word 1 (R36). -/
structure VW where
  tk : Toks
  d : Fin 32
  a : Fin 32
  b : Fin 32
  sub : Fin 8
  pred : Fin 16
  z : Bool
  c : Fin 32
  ty : Ty
  rm : Fin 8
  sat : Bool
  mod : Fin 128
  deriving DecidableEq, Repr

/-- The fields of an F or W instruction in format MW (R35) with memory word 1 (R37). -/
structure MW where
  tk : Toks
  d : Fin 32
  a : Fin 32
  b : Fin 32
  sub : Fin 8
  oc : Fin 16
  sc : Fin 8
  ofs : Fin 262144
  deriving DecidableEq, Repr

/-- The fields of LDS and STS in format MS (R35) with memory word 1: `wm1` is the width less one (R152). -/
structure MS where
  tk : Toks
  d : Fin 32
  a : Fin 32
  wm1 : Fin 256
  oc : Fin 16
  sc : Fin 8
  ofs : Fin 262144
  deriving DecidableEq, Repr

/-- A launch: partition × 64 + queue for the running launch of a queue (R268), 1024 + k for the task of control core k
and 1044 for the root core's. -/
abbrev LaunchId := Nat

/-- A task: launch × 256 + role (R16). -/
abbrev TaskId := Nat

/-- A core: tier × 256 + index for a unit (R17), 768 + k for control core k, 788 for the root core (R411). -/
abbrev CoreId := Nat

/-- A partition, 0 to 15 (R361). -/
abbrev PartId := Fin 16

/-- How a copy between units ends (R301, R302): done, an error of the new unit, or a lower tier late. -/
inductive CopyEnd where
  | done | error | late
  deriving DecidableEq, Repr

/-- What a request to a lower tier was (R309). -/
inductive LateRequest where
  /-- a read by the instruction on which engine `e` of core `k` waits -/
  | instrRead (k : CoreId) (e : Eng)
  /-- the parts request of the MMA or MMAI on core `k` -/
  | parts (k : CoreId)
  /-- a Creamer read of the promotion in progress -/
  | creamer
  /-- the move of slab `j` of the task -/
  | slab (t : TaskId) (j : Fin 1024)
  /-- the copy of a hand-over of the task -/
  | handOver (t : TaskId)
  deriving DecidableEq, Repr

/-- Where a host access goes (R436): a virtual function's port page (BAR0), its partition's memory (BAR2), its MSI-X table and
pending bits (BAR4), or BAR0 of the physical function. -/
inductive HostRegion where
  | port | memory | msix | pf
  deriving DecidableEq, Repr

/-- A region of a flash engine die (R451): the flash tier, at its own byte offset, of the die's share; the die control registers; or the
boot area. -/
inductive DieRegion where
  | tier
  | control (die : Fin 4)
  | boot
  deriving DecidableEq, Repr

/-- A region of one virtual function; the region of the physical function is the same of each. -/
structure HostWindow where
  vf : Fin 16
  region : HostRegion
  deriving DecidableEq, Repr

/-- A byte offset in a region of a die, and bytes for it. -/
structure DieAt where
  region : DieRegion
  ofs : Nat
  deriving DecidableEq, Repr

structure DieWrite where
  place : DieAt
  bytes : List Byte
  deriving DecidableEq, Repr

/-- Who asks for an attestation report, scheduler firmware of a partition or root firmware, and of which partition (R387). -/
structure ReportRequest where
  by_ : Option PartId
  part : PartId
  deriving DecidableEq, Repr

/-- A Berast flit: the header of R441 and its payload. `rsv` is 1-bits in the reserved header field. -/
structure Flit where
  kind : BitVec 8
  vc : BitVec 2
  dst : BitVec 21
  src : BitVec 21
  tag : BitVec 12
  key : BitVec 16
  /-- byte offset in the target's DRAM -/
  addr : BitVec 40
  /-- sectors less one -/
  nsec : BitVec 3
  rsv : BitVec 5
  payload : List Byte
  deriving DecidableEq, Repr

/-- An Oszin flit: the header of R447, two sector slots of 20 bytes and the 16-byte field. -/
structure OFlit where
  kind : BitVec 6
  ch : BitVec 6
  tag : BitVec 12
  part : BitVec 4
  /-- bits [31:28] and [63:58], reserved -/
  rsv : BitVec 10
  sn : BitVec 26
  slots : List Byte
  field : List Byte
  deriving DecidableEq, Repr

/-- A message of a flash engine to the hub (R451): the engine and the Berast header and payload it carries. -/
structure FlashMsg where
  engine : Fin 16
  flit : Flit
  deriving DecidableEq, Repr

/-- Work that a stack or flash engine's instruction queues for an engine of the hub or core dies (R447, R451): its two
words, up to four scalar operands and its role. -/
structure QueuedWork where
  engine : Nat
  word0 : BitVec 32
  word1 : BitVec 32
  ops : List Word
  role : Fin 256
  tag : BitVec 12
  deriving DecidableEq, Repr

/-- The instructions and device events, in the order of the opcode table but for twelve events, which stand before the
messages of the links. -/
inductive Instr where
  -- X short: arithmetic and logic (R71)
  | add (d a b : Reg) | sub (d a b : Reg) | mul (d a b : Reg) | mulh (d a b : Reg) | mulhU (d a b : Reg)
  | div (d a b : Reg) | divU (d a b : Reg) | rem (d a b : Reg) | remU (d a b : Reg)
  | and (d a b : Reg) | or (d a b : Reg) | xor (d a b : Reg) | andn (d a b : Reg)
  | shl (d a b : Reg) | shr (d a b : Reg) | shra (d a b : Reg) | rot (d a b : Reg)
  | min (d a b : Reg) | minU (d a b : Reg) | max (d a b : Reg) | maxU (d a b : Reg)
  | clz (d a : Reg) | ctz (d a : Reg) | popc (d a : Reg) | brev (d a : Reg)
  | sext (d a : Reg) (n : Fin 64) | zext (d a : Reg) (n : Fin 64)
  | cmp (cc : Cond) (d a b : Reg) | sel (d a b : Reg) | clmul (d a b : Reg) | clmulHi (d a b : Reg)
  | addi (d a : Reg) (i : BitVec 8) | andi (d a : Reg) (i : BitVec 8) | ori (d a : Reg) (i : BitVec 8)
  | xori (d a : Reg) (i : BitVec 8) | shli (d a : Reg) (n : Fin 64) | shri (d a : Reg) (n : Fin 64)
  | shrai (d a : Reg) (n : Fin 64)
  -- X short: bit pointers (R75, R76)
  | padd (wc : WCode) (d a b : Reg) | pdiff (wc : WCode) (d a b : Reg)
  | paln (d a : Reg) (n : Fin 64) | palnUp (d a : Reg) (n : Fin 64)
  | btob (d a : Reg) | btobUp (d a : Reg) | byte (d a b : Reg) | pchk (wc : WCode) (d a b : Reg)
  -- X short: CSRs, control, system (R68, R78, R83, R85, R416)
  | csrr (r : Reg) (n : Fin 4096) | csrw (r : Reg) (n : Fin 4096) | csrs (r : Reg) (n : Fin 4096)
  | csrc (r : Reg) (n : Fin 4096)
  | ret (n : Reg) | hop | step | endTask | trap (n : BitVec 8) | nop | sysc (n : BitVec 8) | eret
  | fltr (d : Reg) (k : Fin 3) | fltrClr (d : Reg) (k : Fin 3) | halt
  -- X long (R73, R77 to R87, R416)
  | li (d : Reg) (imm : BitVec 25) | lis (d : Reg) (imm : BitVec 25) | br (imm : BitVec 25)
  | brc (cc : Cond) (d a : Reg) (imm : BitVec 25) | call (d : Reg) (imm : BitVec 25)
  | loop (d : Reg) (imm : BitVec 25) | loopk (imm : BitVec 25)
  | ctxsv (d a b : Reg) | ctxrs (d a b : Reg) | xlinv (d a b : Reg) | bindq (d a : Reg) | tierq (d a : Reg)
  -- F (R134 to R161, R337 to R353)
  | fld (x : MW) | fldv (x : MW) | fldk (x : MW) | lds (x : MS) | fgath (x : MW) | wset (x : MW) | wadv (x : MW)
  | pref (x : MW) | prefArr (x : MW) | gset (x : MW) | xcpy (x : MW) | fldw (x : MW) | bwait (x : MW)
  | fenceF (x : MW) | attp (x : MW) | attl (x : MW) | strSeek (x : MW) | chnNxt (x : MW)
  -- M (R203 to R214)
  | mma (x : VW) | mmai (x : VW) | mmv (x : VW) | mz (x : VW) | macc (x : VW) | mwcp (x : VW) | mwclr (x : VW)
  -- V (R219 to R251)
  | vadd (x : VW) | vsub (x : VW) | vmul (x : VW) | vfma (x : VW) | vmin (x : VW) | vmax (x : VW) | vabs (x : VW)
  | vneg (x : VW) | vrcp (x : VW) | vrsq (x : VW) | vrefr (x : VW) | vrefq (x : VW) | vexp2 (x : VW) | vlog2 (x : VW)
  | vtanh (x : VW) | viadd (x : VW) | visub (x : VW) | vimul (x : VW) | vand (x : VW) | vor (x : VW) | vxor (x : VW)
  | vshl (x : VW) | vshr (x : VW) | vshra (x : VW) | vclmul (x : VW) | vcmp (x : VW) | vselp (x : VW) | vcvt (x : VW)
  | vqnt (x : VW) | vhad (x : VW) | vrotr (x : VW) | vrotc (x : VW) | vbcr (x : VW) | vbcc (x : VW) | vredr (x : VW)
  | vredc (x : VW) | vscnr (x : VW) | vscnc (x : VW) | vtrn (x : VW) | vcomp (x : VW) | vtopk (x : VW) | viota (x : VW)
  | vmov (x : VW) | vmovz (x : VW) | vmovs (x : VW) | vbcs (x : VW) | vldb (x : VW) | vstb (x : VW) | pand (x : VW)
  | por (x : VW) | pxor (x : VW) | pnot (x : VW) | pset (x : VW) | pcnt (x : VW) | pfrst (x : VW) | ppack (x : VW)
  | punpk (x : VW) | atmrg (x : VW)
  -- W (R144 to R170, R336 to R353)
  | fst (x : MW) | fstv (x : MW) | sts (x : MS) | fscat (x : MW) | atom (x : MW) | red (x : MW) | copy (x : MW)
  | publ (x : MW) | shad (x : MW) | fenceW (x : MW) | bini (x : MW) | barr (x : MW) | mgrp (x : MW) | mrow (x : MW)
  | mcmt (x : MW) | invl (x : MW) | attf (x : MW) | strDep (x : MW) | strPin (x : MW) | strRel (x : MW) | strDrop (x : MW)
  | chnBeg (x : MW) | chnEnd (x : MW) | crmProm (x : MW) | crmDem (x : MW) | plcApp (x : MW) | plcUpd (x : MW)
  -- steps of the engines and their task (R30, R40, R99, R106)
  | skipWord (long : Bool) | illegalInstruction (e : Eng) (sub : IllSub)
  | tokenPop (e : Eng) (wb wa : Bool) | tokenPush (e : Eng) | tokenDeadlockFault
  -- hand-over, slabs, split execution, lower tiers (R300, R302, R216, R309)
  | handOverCopyDone (t : TaskId) (r : CopyEnd) | slabMove (t : TaskId) (j : Fin 1024) (ok : Bool)
  | slabMoveRetry (t : TaskId) (j : Fin 1024) (ok : Bool) | partsRequestReturn (k holder : CoreId)
  | lowerTierDeadline (r : LateRequest)
  -- the launch scheduler (R257 to R281)
  | append (p : PartId) (q : Fin 64) (rec : List Word) | schedulerIssue | periodBoundary
  | communicationStep (l : LaunchId) | bteCommand (l : LaunchId) | launchFinish (l : LaunchId)
  | watchdogFault (l : LaunchId) | preemptionStrike (l : LaunchId) | preemptionDeadline (l : LaunchId)
  -- the Creamer (R292 to R296)
  | promotion | promotionPublish | demotion
  -- walkers, channels, watchdogs, scrub (R367 to R383, R405)
  | pageWalk (p : PartId) (va : Word) | hotRowRefresh (channel bank row : Nat) | stackEngineWatchdog (e : Fin 192)
  | clearingEngineRow (stack : Fin 12) | sramScrub (k : CoreId) | dramScrub (row : Nat)
  | recordWrite (root : Bool) (p : PartId)
  -- firmware actions (R361, R378, R424 to R426, R263, R419, R440)
  | pactActivate (p : PartId) (addr : Word) | pactReset (p : PartId) | pactDisable (p : PartId)
  | pbindWrite (p : PartId) (v : Word) | preqPreempt (p : PartId) (q : Fin 64) | preqResume (p : PartId) (q : Fin 64)
  | rcvrReplay (p : PartId) (q : Fin 64) (role : Fin 256)
  | rcvrRebindReplay (p : PartId) (q : Fin 64) (role : Fin 256) (ent : BitVec 32)
  | rcvrAbort (p : PartId) (q : Fin 64) (role : Fin 256)
  | fdemRole (p : PartId) (q : Fin 64) (role : Fin 256) (ent : BitVec 32)
  | fdemObject (p : PartId) (tier : Fin 4) (obj : BitVec 32)
  | qcfgWrite (p : PartId) (q : Fin 64) (v : Word) | wakeWrite (v : BitVec 6) | pstlLoad
  -- the host (R378, R436 to R438)
  | functionLevelReset (vf : Fin 16) | hostMemoryRead (w : HostWindow) (ofs len : Nat)
  | hostMemoryWrite (w : HostWindow) (ofs : Nat) (bytes : List Byte) | rootMailboxWrite (bytes : List Byte)
  -- completions and resets named apart (R156, R382, R280, R276, R387, R386)
  | prefetchArrival | activationWindowEnd (channel : Nat) | queueReset (p : PartId) (q : Fin 64)
  | launchAbort (p : PartId) (q : Fin 64)
  | churnStepSend (t : TaskId)
  | gdone (s : Fin 12) (x : OFlit) | wdog (s : Fin 12) (e : Fin 16) | rstd (s : Fin 12) (e : Fin 16)
  | clrd (s : Fin 12) (p : PartId) | flashRequestRetry (w : DieWrite) | escmd (s : Fin 12) (x : QueuedWork)
  | flashQueueWork (x : QueuedWork) | berastPlcd (x : Flit) | flashEngineRequest (x : FlashMsg)
  -- Berast (R441 to R446, R330)
  | berastRd (x : Flit) | berastWr (x : Flit) | berastAtom (x : Flit) | berastBar (x : Flit) | berastRedp (x : Flit)
  | berastChnb (x : Flit) | berastRdr (x : Flit) | berastAck (x : Flit) | berastAtr (x : Flit)
  | berastBrs (x : Flit) | berastRedm (x : Flit) | berastErr (x : Flit) | berastFlitDrop (x : Flit)
  | portDown (k : Fin 36) | churnOpenTimeout (t : TaskId)
  -- Oszin (R447 to R449)
  | oszinRd (s : Fin 12) (x : OFlit) | oszinWr (s : Fin 12) (x : OFlit) | gopen (s : Fin 12) (x : OFlit)
  | grow (s : Fin 12) (x : OFlit) | gcmt (s : Fin 12) (x : OFlit) | gabt (s : Fin 12) (x : OFlit)
  | slot (s : Fin 12) (x : OFlit) | idrd (s : Fin 12) (x : OFlit) | reprd (s : Fin 12) (x : OFlit)
  | rste (s : Fin 12) (e : Fin 16) | clrs (s : Fin 12) (x : OFlit) | esans (s : Fin 12) (x : OFlit)
  | oszinRdr (s : Fin 12) (x : OFlit) | oszinAck (s : Fin 12) (x : OFlit) | blk (s : Fin 12) (x : OFlit)
  | esreqRd (s : Fin 12) (x : OFlit)
  | esreqWr (s : Fin 12) (x : OFlit) | esreqAtom (s : Fin 12) (x : OFlit) | esreqBar (s : Fin 12) (x : OFlit)
  | esreqRedp (s : Fin 12) (x : OFlit) | oszinErr (s : Fin 12) (x : OFlit) | oszinMalformedFlit (s : Fin 12) (x : OFlit)
  | oszinLinkLost (s : Fin 12)
  -- flash links (R450 to R452)
  | flashMemoryRead (at_ : DieAt) (len : Nat) | flashDeferrableWrite (at_ : DieAt) (bytes : List Byte)
  | flashEngineAnswer (x : FlashMsg)
  | flashQueueWorkAnswer (e : Fin 16) (tag : BitVec 12) (result : Word) (cls : BitVec 8)
  | dieBlockClear (die : Fin 4) (v : Word) | dieEngineReset (die : Fin 4) (v : BitVec 4) | flashLinkLost (die : Fin 4)
  -- boot, power, heat (R450, R453, R454)
  | attestationReport (r : ReportRequest) (nonce : List Byte) | imageMeasurement (p : PartId) (image : List Byte) (ty : Word)
  | powerOn (rootImage sig key : List Byte) (version : Word) | powerLoss | thermalThrottle (on : Bool) | thermalTrip
  deriving DecidableEq, Repr

end Sys2Proof
end

