-- ==== Sys2Proof/WellFormed.lean ====
section
/-! DEFINITION. Check 7 of R40 on a decoded instruction: every field that an instruction does not use is 0, and no field
holds a reserved value (R36 to R38, R71 to R87, R135, R214, R224, R334, R416). Checks that depend on the mode or on a
register's value are made when the instruction executes (R69, R412). -/

namespace Sys2Proof

/-- The floating types F of R224. -/
def Ty.isF : Ty → Bool
  | .f32 | .bf16 | .f16 => true
  | _ => false

/-- The integer types I of R224. -/
def Ty.isI : Ty → Bool
  | .i32 | .n32 | .i16 | .n16 | .i8 | .n8 | .i64 | .n64 => true
  | _ => false

/-- The 64-bit integer types, which take lane pairs (R220). -/
def Ty.is64 : Ty → Bool
  | .i64 | .n64 => true
  | _ => false

/-- The marker formats (R176). -/
def Ty.isMk : Ty → Bool
  | .mk8 | .mk6 | .mk4 | .mk3 => true
  | _ => false

/-- The signed integer types (R176). -/
def Ty.isSigned : Ty → Bool
  | .i32 | .i16 | .i8 | .i64 => true
  | _ => false

/-- The width of an element in bits (R176). -/
def Ty.width : Ty → Nat
  | .f32 | .i32 | .n32 => 32
  | .bf16 | .f16 | .i16 | .n16 => 16
  | .i8 | .n8 | .mk8 => 8
  | .mk6 => 6
  | .mk4 => 4
  | .mk3 => 3
  | .i64 | .n64 => 64
  | .b1 => 1

/-- Types with codes 0 to 12 (R224): all but i64, n64 and b1. -/
def Ty.upTo12 : Ty → Bool
  | .i64 | .n64 | .b1 => false
  | _ => true

/-- TYPE not used: the field is 0, which is the code of f32 (R36). -/
def Ty.unused (t : Ty) : Bool := t == .f32

/-- MOD[6], the immediate bit of shifts, rotations and broadcasts (R224). -/
def VW.immBit (x : VW) : Bool := x.mod.val / 64 == 1

/-- MOD[5:0] (R224). -/
def VW.imm6 (x : VW) : Nat := x.mod.val % 64

/-- RM, SAT and MOD are reserved. -/
def VW.plain (x : VW) : Bool := x.rm == 0 && !x.sat && x.mod == 0

/-- The amount operand of R229 and R240: an immediate below `lim` with b reserved, or a register with MOD reserved. -/
def VW.amountOk (x : VW) (lim : Nat) : Bool :=
  if x.immBit then x.b == 0 && decide (x.imm6 < lim) else x.mod == 0

/-- Two-source V instruction without C (R224). -/
def VW.two (x : VW) : Bool := x.c == 0 && x.sub == 0

/-- One-source V instruction (R224). -/
def VW.one (x : VW) : Bool := x.b == 0 && x.c == 0 && x.sub == 0

/-- The rounding field names a mode of an arithmetic instruction: 000 to 100 (R36, R224). -/
def VW.rmArith (x : VW) : Bool := decide (x.rm.val ≤ 4)

/-- The rounding field names a mode of a conversion, dither included: 000 to 101 (R36, R224). -/
def VW.rmConv (x : VW) : Bool := decide (x.rm.val ≤ 5)

/-- VADD, VSUB, VMUL (R224). -/
def VW.wfArith (x : VW) : Bool := x.two && x.ty.isF && x.rmArith && x.mod == 0
/-- VMIN, VMAX (R224). -/
def VW.wfMinMax (x : VW) : Bool := x.two && (x.ty.isF || x.ty.isI) && x.plain
/-- VABS, VNEG (R224). -/
def VW.wfAbsNeg (x : VW) : Bool :=
  x.one && (x.ty.isF || x.ty.isSigned) && x.rm == 0 && x.mod == 0 && (!x.sat || x.ty.isSigned)
/-- VRCP, VRSQ (R224). -/
def VW.wfSeed (x : VW) : Bool := x.one && x.ty == .f32 && x.plain
/-- VREFR, VREFQ (R224). -/
def VW.wfRefine (x : VW) : Bool := x.two && x.ty == .f32 && x.rmArith && x.mod == 0
/-- VEXP2, VLOG2, VTANH (R224). -/
def VW.wfSpecial (x : VW) : Bool := x.one && x.ty.isF && decide (x.rm.val ≤ 1) && !x.sat && x.mod == 0
/-- VIADD, VISUB (R224). -/
def VW.wfInt (x : VW) : Bool := x.two && x.ty.isI && x.rm == 0 && x.mod == 0
/-- VIMUL (R224): sub 0 low, 1 high; SAT with sub 0 only. -/
def VW.wfIMul (x : VW) : Bool :=
  x.c == 0 && x.ty.isI && x.rm == 0 && x.mod == 0 && decide (x.sub.val ≤ 1) && (!x.sat || x.sub == 0)
/-- VAND, VOR, VXOR (R224). -/
def VW.wfLogic (x : VW) : Bool := x.two && x.ty.unused && x.plain
/-- VSHL, VSHR, VSHRA (R224, R229). -/
def VW.wfShift (x : VW) : Bool := x.two && x.ty.isI && x.rm == 0 && !x.sat && x.amountOk x.ty.width
/-- VCLMUL (R224). -/
def VW.wfClmul (x : VW) : Bool := x.c == 0 && (x.ty == .n32 || x.ty == .n64) && x.plain && decide (x.sub.val ≤ 1)
/-- VCMP (R224, R235): condition 7 is reserved, and so is 6 with an integer type. -/
def VW.wfCmp (x : VW) : Bool :=
  decide (x.d.val < 16) && x.c == 0 && x.plain &&
    ((x.ty.isF && decide (x.sub.val ≤ 6)) || (x.ty.isI && decide (x.sub.val ≤ 5)))
/-- VSELP (R224). -/
def VW.wfSelp (x : VW) : Bool := decide (x.c.val < 16) && x.sub == 0 && x.ty.unused && x.plain
/-- VCVT (R224, R237): MOD[3:0] is the source type, 0 to 12. -/
def VW.wfCvt (x : VW) : Bool := x.one && x.ty.upTo12 && x.rmConv && decide (x.mod.val ≤ 12)
/-- VQNT (R224, R238): C names another register than d. -/
def VW.wfQnt (x : VW) : Bool := x.b == 0 && x.sub == 0 && x.c != x.d && x.ty.isMk && x.rmConv && !x.sat && x.mod == 0
/-- VHAD (R224, R239). -/
def VW.wfHad (x : VW) : Bool := x.one && x.ty == .f32 && x.rm == 0 && !x.sat && decide (x.mod.val ≤ 2)
/-- VROTR, VBCR (`lim` 16) and VROTC, VBCC (`lim` 64) (R224, R240). -/
def VW.wfAxis (x : VW) (lim : Nat) : Bool := x.two && x.ty.unused && x.rm == 0 && !x.sat && x.amountOk lim
/-- MOD[2:0], the operation of a reduction or scan (R241). -/
def VW.redOp (x : VW) : Nat := x.mod.val % 8
/-- The operation and SAT of a reduction or scan (R224, R241): codes 6 and 7 are reserved, 3 to 5 with an F type too;
SAT goes with an integer add. -/
def VW.redOk (x : VW) : Bool :=
  decide (x.redOp ≤ 5) && (x.ty.isF || (x.ty.isI && !x.ty.is64)) && (!x.ty.isF || decide (x.redOp ≤ 2)) &&
    (!x.sat || (x.ty.isI && x.redOp == 0)) && x.rm == 0
/-- VREDR, VREDC (R224): MOD[3] is bc. -/
def VW.wfRed (x : VW) : Bool := x.one && x.redOk && decide (x.mod.val < 16)
/-- VSCNR, VSCNC (R224): MOD[4] is ex, MOD[3] and MOD[6:5] are reserved. -/
def VW.wfScan (x : VW) : Bool := x.one && x.redOk && decide (x.mod.val < 32) && x.mod.val / 8 % 2 == 0
/-- VTRN, VCOMP, VMOV (R224). -/
def VW.wfMove (x : VW) : Bool := x.one && x.ty.unused && x.plain
/-- VTOPK (R224, R244): C is used with MOD[6] only, and Z is 0. -/
def VW.wfTopk (x : VW) : Bool :=
  decide (x.d.val < 16) && x.b == 0 && x.sub == 0 && (x.ty.isF || (x.ty.isI && !x.ty.is64)) && x.rm == 0 && !x.sat &&
    !x.z && (x.immBit || x.c == 0)
/-- VIOTA (R224, R245). -/
def VW.wfIota (x : VW) : Bool :=
  x.a == 0 && x.b == 0 && x.c == 0 && decide (x.sub.val ≤ 2) && x.ty.unused && x.plain
/-- VMOVZ (R224). -/
def VW.wfMovz (x : VW) : Bool := x.one && decide (x.a.val < 8) && x.ty.unused && x.plain
/-- VMOVS (R224, R245): PRED and Z are 0. -/
def VW.wfMovs (x : VW) : Bool := x.two && (x.ty.upTo12 && !x.ty.isMk || x.ty.is64) && x.plain && x.pred == 0 && !x.z
/-- VBCS (R224): every type but b1. -/
def VW.wfBcs (x : VW) : Bool := x.one && x.ty != .b1 && x.plain
/-- VLDB (R224). -/
def VW.wfLdb (x : VW) : Bool := x.two && decide (x.a.val < 16) && x.ty.upTo12 && x.rmConv && x.mod == 0
/-- VSTB (R224): Z is reserved. -/
def VW.wfStb (x : VW) : Bool := x.two && decide (x.d.val < 16) && x.ty.upTo12 && x.plain && !x.z
/-- PAND, POR, PXOR (R224). -/
def VW.wfPred2 (x : VW) : Bool :=
  x.two && decide (x.d.val < 16) && decide (x.a.val < 16) && decide (x.b.val < 16) && x.ty.unused && x.plain
/-- PNOT (R224). -/
def VW.wfPred1 (x : VW) : Bool := x.one && decide (x.d.val < 16) && decide (x.a.val < 16) && x.ty.unused && x.plain
/-- PSET (R224): MOD[0] val, MOD[1] all; PRED is 0 with all. -/
def VW.wfPset (x : VW) : Bool :=
  x.one && decide (x.d.val < 16) && x.a == 0 && x.ty.unused && x.rm == 0 && !x.sat && decide (x.mod.val ≤ 3) &&
    (decide (x.mod.val < 2) || x.pred == 0)
/-- PCNT (R224, R249). -/
def VW.wfPcnt (x : VW) : Bool :=
  x.b == 0 && x.c == 0 && decide (x.sub.val ≤ 1) && decide (x.a.val < 16) && x.ty.unused && x.plain
/-- PFRST (R224, R249): d is a predicate with sub 0, a scalar with sub 1. -/
def VW.wfPfrst (x : VW) : Bool := x.wfPcnt && (x.sub == 1 || decide (x.d.val < 16))
/-- PPACK (R224): PRED and Z are 0. -/
def VW.wfPpack (x : VW) : Bool := x.one && decide (x.a.val < 16) && x.ty.unused && x.plain && x.pred == 0 && !x.z
/-- PUNPK (R224): PRED and Z are 0. -/
def VW.wfPunpk (x : VW) : Bool := x.one && decide (x.d.val < 16) && x.ty.unused && x.plain && x.pred == 0 && !x.z
/-- ATMRG (R224, R251): a is 0 with `.ml`. -/
def VW.wfAtmrg (x : VW) : Bool :=
  x.b == 0 && decide (x.sub.val ≤ 1) && (x.sub == 0 || x.a == 0) && x.ty == .f32 && x.plain

/-- MMA (R208, R214). -/
def VW.wfMma (x : VW) : Bool :=
  decide (x.d.val < 8) && decide (x.a.val < 16) && decide (x.b.val < 8) && x.sub == 0 && x.plain &&
    (x.ty.isMk || x.ty == .bf16 || x.ty == .f16)
/-- MMAI (R209, R214). -/
def VW.wfMmai (x : VW) : Bool :=
  decide (x.d.val < 8) && decide (x.a.val < 16) && decide (x.b.val < 8) && x.sub == 0 && x.plain &&
    (x.ty == .i8 || x.ty == .n8)
/-- MMV (R214). -/
def VW.wfMmv (x : VW) : Bool := x.one && decide (x.d.val < 8) && x.ty.unused && x.plain
/-- MZ (R214). -/
def VW.wfMz (x : VW) : Bool := x.one && decide (x.d.val < 8) && x.a == 0 && x.ty.unused && x.plain
/-- MACC (R210, R214): RM is reserved with i32. -/
def VW.wfMacc (x : VW) : Bool :=
  x.b == 0 && x.c == 0 && decide (x.d.val < 8) && decide (x.sub.val ≤ 1) && (x.sub == 1 || decide (x.a.val < 8)) &&
    !x.sat && x.mod == 0 && ((x.ty == .f32 && x.rmArith) || (x.ty == .i32 && x.rm == 0))
/-- MWCP (R213, R214). -/
def VW.wfMwcp (x : VW) : Bool :=
  x.d == 0 && decide (x.a.val < 16) && decide (x.sub.val ≤ 1) && x.c == 0 && x.ty.unused && x.pred == 0 && !x.z && x.plain
/-- MWCLR (R213, R214). -/
def VW.wfMwclr (x : VW) : Bool := x.one && x.d == 0 && x.ty.unused && x.pred == 0 && !x.z && x.plain

/-- SC names a scope (R37). -/
def MW.scopeOk (x : MW) : Bool := decide (x.sc.val ≤ 3)
/-- OC, SC and the low field are reserved (R135, R334). -/
def MW.noMem (x : MW) : Bool := x.oc == 0 && x.sc == 0 && x.ofs == 0
/-- OC and SC are used and the low field is reserved (R135, R334). -/
def MW.memOnly (x : MW) : Bool := x.scopeOk && x.ofs == 0
/-- d names the arrival pair of R134: even, from 2 to 30. -/
def MW.pairOk (x : MW) : Bool := decide (x.d.val % 2 = 0) && x.d != 0
/-- b and sub are 0. -/
def MW.noBSub (x : MW) : Bool := x.b == 0 && x.sub == 0

/-- FLD, FST (R135, R144). -/
def MW.wfFld (x : MW) : Bool :=
  decide (x.d.val < 16) && decide (x.b.val < 8) && x.sub == 0 && x.scopeOk && decide (x.ofs.val < 65536)
/-- FLDV with `s` 1 and FSTV with `s` 0 (R135, R144). -/
def MW.wfFldv (x : MW) (s : Nat) : Bool := decide (x.b.val < 8) && decide (x.sub.val ≤ s) && x.memOnly
/-- FLDK (R135, R153): sub is any width code. -/
def MW.wfFldk (x : MW) : Bool := x.b == 0 && x.oc == 0 && x.sc == 0
/-- FGATH, FSCAT (R135, R144). -/
def MW.wfGath (x : MW) : Bool :=
  decide (x.d.val < 16) && decide (x.b.val < 8) && x.sub == 0 && x.scopeOk && decide (x.ofs.val < 16384)
/-- WSET, WADV, GSET (R135, R140, R150): d names a window or generator. -/
def MW.wfRecord (x : MW) : Bool := decide (x.d.val < 8) && x.noBSub && x.memOnly
/-- PREF (R156). -/
def MW.wfPref (x : MW) : Bool := x.d == 0 && x.sub == 0 && x.noMem
/-- PREF.ARR (R134, R156). -/
def MW.wfPrefArr (x : MW) : Bool := x.pairOk && x.sub == 1 && x.noMem
/-- XCPY (R135, R154). -/
def MW.wfXcpy (x : MW) : Bool := decide (x.d.val < 16) && decide (x.a.val < 16) && x.sub == 0 && x.noMem
/-- FLDW (R135, R148). -/
def MW.wfFldw (x : MW) : Bool := x.d == 0 && x.sub == 0 && x.scopeOk && decide (x.ofs.val < 2048)
/-- BWAIT, STR.DROP, PLC.UPD (R161, R334): three scalars. -/
def MW.wfThree (x : MW) : Bool := x.sub == 0 && x.noMem
/-- FENCE.F (`k` true) and FENCE.W (R158): [0] of the 18-bit field is 0, and K is reserved in FENCE.W. -/
def MW.wfFence (x : MW) (k : Bool) : Bool :=
  x.oc == 0 && x.scopeOk && decide (x.ofs.val < 65536) && decide (x.sub.val % 2 = 0) &&
    (k || decide (x.sub.val / 2 % 2 = 0))
/-- ATTP, ATTL (R334, R338). -/
def MW.wfAtt (x : MW) : Bool := x.sub == 0 && x.scopeOk && decide (x.ofs.val ≤ 1)
/-- STR.SEEK (R334, R345). -/
def MW.wfSeek (x : MW) : Bool := x.sub == 0 && x.memOnly
/-- CHN.NXT, MCMT (R170, R352): only d. -/
def MW.wfD (x : MW) : Bool := x.a == 0 && x.noBSub && x.noMem
/-- ATOM (R135, R155): codes 10 to 15 and width codes 1, 2, 3 are reserved. -/
def MW.wfAtom (x : MW) : Bool :=
  x.sub == 0 && x.scopeOk && decide (x.ofs.val < 128) && decide (x.ofs.val % 16 ≤ 9) &&
    (decide (x.ofs.val / 16 = 0) || decide (4 ≤ x.ofs.val / 16))
/-- RED (R135, R165). -/
def MW.wfRed (x : MW) : Bool := decide (x.d.val < 16) && x.sub == 0 && x.oc == 0 && x.sc == 0 && decide (x.ofs.val ≤ 2)
/-- COPY (R135, R164): sub[2:1] = 11 is reserved. -/
def MW.wfCopy (x : MW) : Bool := decide (x.sub.val / 2 ≠ 3) && x.noMem
/-- PUBL, MGRP (R163, R167): only a. -/
def MW.wfA (x : MW) : Bool := x.d == 0 && x.noBSub && x.noMem
/-- SHAD, INVL, STR.PIN, STR.REL (R157, R162, R347): a and b. -/
def MW.wfAB (x : MW) : Bool := x.d == 0 && x.sub == 0 && x.noMem
/-- BINI, BARR, PLC.APP (R161, R343): d and a. -/
def MW.wfDA (x : MW) : Bool := x.noBSub && x.noMem
/-- MROW (R135, R168): the zero form has b 0; [0] is P. -/
def MW.wfMrow (x : MW) : Bool :=
  x.d == 0 && decide (x.sub.val ≤ 1) && (x.sub == 1 || x.b == 0) && x.oc == 0 && x.sc == 0 && decide (x.ofs.val ≤ 1)
/-- ATTF (R334, R341). -/
def MW.wfAttf (x : MW) : Bool := x.d == 0 && decide (x.sub.val ≤ 2) && x.memOnly
/-- STR.DEP (R334, R346). -/
def MW.wfDep (x : MW) : Bool := x.noBSub && x.memOnly
/-- CHN.BEG (R334, R350). -/
def MW.wfBeg (x : MW) : Bool := x.d == 0 && x.noBSub && x.memOnly
/-- CHN.END (R353): every field 0. -/
def MW.wfNone (x : MW) : Bool := x.d == 0 && x.a == 0 && x.noBSub && x.noMem
/-- CRM.PROM (`len` true) and CRM.DEM (R336): sub is the tier, 0 or 1. -/
def MW.wfCrm (x : MW) (len : Bool) : Bool := x.pairOk && (len || x.b == 0) && decide (x.sub.val ≤ 1) && x.noMem

/-- LDS, STS (R152): widths 1 to 64. -/
def MS.wf (x : MS) : Bool := decide (x.wm1.val < 64) && decide (x.sc.val ≤ 3)

/-- The instruction passes check 7 of R40. A device event has no word and is well-formed. -/
def Instr.wf : Instr → Bool
  | .add _ _ _ | .sub _ _ _ | .mul _ _ _ | .mulh _ _ _ | .mulhU _ _ _ | .div _ _ _ | .divU _ _ _ | .rem _ _ _
  | .remU _ _ _ | .and _ _ _ | .or _ _ _ | .xor _ _ _ | .andn _ _ _ | .shl _ _ _ | .shr _ _ _ | .shra _ _ _
  | .rot _ _ _ | .min _ _ _ | .minU _ _ _ | .max _ _ _ | .maxU _ _ _ | .clz _ _ | .ctz _ _ | .popc _ _ | .brev _ _
  | .sext _ _ _ | .zext _ _ _ | .cmp _ _ _ _ | .sel _ _ _ | .clmul _ _ _ | .clmulHi _ _ _ | .addi _ _ _ | .andi _ _ _
  | .ori _ _ _ | .xori _ _ _ | .shli _ _ _ | .shri _ _ _ | .shrai _ _ _ | .padd _ _ _ _ | .pdiff _ _ _ _ | .paln _ _ _
  | .palnUp _ _ _ | .btob _ _ | .btobUp _ _ | .byte _ _ _ | .pchk _ _ _ _ | .csrr _ _ | .csrw _ _ | .csrs _ _
  | .csrc _ _ | .ret _ | .hop | .step | .endTask | .trap _ | .nop | .sysc _ | .eret | .fltr _ _ | .fltrClr _ _ | .halt
  | .li _ _ | .lis _ _ | .br _ | .brc _ _ _ _ | .call _ _ | .loop _ _ | .loopk _ | .ctxsv _ _ _ | .ctxrs _ _ _
  | .xlinv _ _ _ | .bindq _ _ | .tierq _ _ => true
  | .fld x => x.wfFld
  | .fldv x => x.wfFldv 1
  | .fldk x => x.wfFldk
  | .lds x => x.wf
  | .fgath x => x.wfGath
  | .wset x => x.wfRecord
  | .wadv x => x.wfRecord
  | .pref x => x.wfPref
  | .prefArr x => x.wfPrefArr
  | .gset x => x.wfRecord
  | .xcpy x => x.wfXcpy
  | .fldw x => x.wfFldw
  | .bwait x => x.wfThree
  | .fenceF x => x.wfFence true
  | .attp x => x.wfAtt
  | .attl x => x.wfAtt
  | .strSeek x => x.wfSeek
  | .chnNxt x => x.wfD
  | .mma x => x.wfMma
  | .mmai x => x.wfMmai
  | .mmv x => x.wfMmv
  | .mz x => x.wfMz
  | .macc x => x.wfMacc
  | .mwcp x => x.wfMwcp
  | .mwclr x => x.wfMwclr
  | .vadd x => x.wfArith
  | .vsub x => x.wfArith
  | .vmul x => x.wfArith
  | .vfma x => x.sub == 0 && x.ty.isF && x.rmArith && x.mod == 0
  | .vmin x => x.wfMinMax
  | .vmax x => x.wfMinMax
  | .vabs x => x.wfAbsNeg
  | .vneg x => x.wfAbsNeg
  | .vrcp x => x.wfSeed
  | .vrsq x => x.wfSeed
  | .vrefr x => x.wfRefine
  | .vrefq x => x.wfRefine
  | .vexp2 x => x.wfSpecial
  | .vlog2 x => x.wfSpecial
  | .vtanh x => x.wfSpecial
  | .viadd x => x.wfInt
  | .visub x => x.wfInt
  | .vimul x => x.wfIMul
  | .vand x => x.wfLogic
  | .vor x => x.wfLogic
  | .vxor x => x.wfLogic
  | .vshl x => x.wfShift
  | .vshr x => x.wfShift
  | .vshra x => x.wfShift
  | .vclmul x => x.wfClmul
  | .vcmp x => x.wfCmp
  | .vselp x => x.wfSelp
  | .vcvt x => x.wfCvt
  | .vqnt x => x.wfQnt
  | .vhad x => x.wfHad
  | .vrotr x => x.wfAxis 16
  | .vrotc x => x.wfAxis 64
  | .vbcr x => x.wfAxis 16
  | .vbcc x => x.wfAxis 64
  | .vredr x => x.wfRed
  | .vredc x => x.wfRed
  | .vscnr x => x.wfScan
  | .vscnc x => x.wfScan
  | .vtrn x => x.wfMove
  | .vcomp x => x.wfMove
  | .vtopk x => x.wfTopk
  | .viota x => x.wfIota
  | .vmov x => x.wfMove
  | .vmovz x => x.wfMovz
  | .vmovs x => x.wfMovs
  | .vbcs x => x.wfBcs
  | .vldb x => x.wfLdb
  | .vstb x => x.wfStb
  | .pand x => x.wfPred2
  | .por x => x.wfPred2
  | .pxor x => x.wfPred2
  | .pnot x => x.wfPred1
  | .pset x => x.wfPset
  | .pcnt x => x.wfPcnt
  | .pfrst x => x.wfPfrst
  | .ppack x => x.wfPpack
  | .punpk x => x.wfPunpk
  | .atmrg x => x.wfAtmrg
  | .fst x => x.wfFld
  | .fstv x => x.wfFldv 0
  | .sts x => x.wf
  | .fscat x => x.wfGath
  | .atom x => x.wfAtom
  | .red x => x.wfRed
  | .copy x => x.wfCopy
  | .publ x => x.wfA
  | .shad x => x.wfAB
  | .fenceW x => x.wfFence false
  | .bini x => x.wfDA
  | .barr x => x.wfDA
  | .mgrp x => x.wfA
  | .mrow x => x.wfMrow
  | .mcmt x => x.wfD
  | .invl x => x.wfAB
  | .attf x => x.wfAttf
  | .strDep x => x.wfDep
  | .strPin x => x.wfAB
  | .strRel x => x.wfAB
  | .strDrop x => x.wfThree
  | .chnBeg x => x.wfBeg
  | .chnEnd x => x.wfNone
  | .crmProm x => x.wfCrm true
  | .crmDem x => x.wfCrm false
  | .plcApp x => x.wfDA
  | .plcUpd x => x.wfThree
  | .skipWord _ | .illegalInstruction _ _ | .tokenPop _ _ _ | .tokenPush _ | .tokenDeadlockFault
  | .handOverCopyDone _ _ | .slabMove _ _ _ | .slabMoveRetry _ _ _ | .partsRequestReturn _ _ | .lowerTierDeadline _
  | .append _ _ _ | .schedulerIssue | .periodBoundary | .communicationStep _ | .bteCommand _ | .launchFinish _
  | .watchdogFault _ | .preemptionStrike _ | .preemptionDeadline _ | .promotion | .promotionPublish | .demotion
  | .pageWalk _ _ | .hotRowRefresh _ _ _ | .stackEngineWatchdog _ | .clearingEngineRow _ | .sramScrub _ | .dramScrub _
  | .recordWrite _ _ | .pactActivate _ _ | .pactReset _ | .pactDisable _ | .pbindWrite _ _ | .preqPreempt _ _
  | .preqResume _ _ | .rcvrReplay _ _ _ | .rcvrRebindReplay _ _ _ _ | .rcvrAbort _ _ _ | .fdemRole _ _ _ _
  | .fdemObject _ _ _ | .qcfgWrite _ _ _ | .wakeWrite _ | .pstlLoad | .functionLevelReset _ | .hostMemoryRead _ _ _
  | .hostMemoryWrite _ _ _ | .rootMailboxWrite _ | .berastRd _ | .berastWr _ | .berastAtom _ | .berastBar _
  | .berastRedp _ | .berastChnb _ | .berastPlcd _ | .berastRdr _ | .berastAck _ | .berastAtr _ | .berastBrs _
  | .berastRedm _ | .berastErr _ | .berastFlitDrop _ | .portDown _ | .churnStepSend _ | .churnOpenTimeout _
  | .oszinRd _ _ | .oszinWr _ _ | .gopen _ _ | .grow _ _ | .gcmt _ _ | .gabt _ _ | .slot _ _ | .idrd _ _ | .reprd _ _
  | .rste _ _ | .clrs _ _ | .esans _ _ | .oszinRdr _ _ | .oszinAck _ _ | .gdone _ _ | .blk _ _ | .wdog _ _ | .rstd _ _
  | .clrd _ _ | .escmd _ _ | .esreqRd _ _ | .esreqWr _ _ | .esreqAtom _ _ | .esreqBar _ _ | .esreqRedp _ _
  | .oszinErr _ _ | .oszinMalformedFlit _ _ | .oszinLinkLost _ | .flashMemoryRead _ _ | .flashDeferrableWrite _ _
  | .flashRequestRetry _ | .flashEngineRequest _ | .flashEngineAnswer _ | .flashQueueWork _
  | .flashQueueWorkAnswer _ _ _ _ | .dieBlockClear _ _ | .dieEngineReset _ _ | .flashLinkLost _ | .powerOn _ _ _ _
  | .powerLoss | .thermalThrottle _ | .thermalTrip | .prefetchArrival | .activationWindowEnd _ | .queueReset _ _
  | .launchAbort _ _ | .attestationReport _ _ | .imageMeasurement _ _ _ => true

end Sys2Proof
end

