-- ==== Sys2Proof/Decode.lean ====
section
/-! DEFINITION. The decoder of instruction words, total on any words and bytes, in the order of checks of R40, and after
it the encoder, from the same layouts (R26 to R39). -/

namespace Sys2Proof

/-- Why bytes give no instruction: a check of R40, or too few bytes for the instruction (R32). -/
inductive Reject where
  | illegal (sub : IllSub)
  | truncated
  deriving DecidableEq, Repr

/-- Sub-cause numbers (R40). -/
def IllSub.num : IllSub → Nat
  | .reservedTag => 1 | .strayContinuation => 2 | .tokenBitsOnX => 3 | .shortWord => 4 | .malformedContinuation => 5
  | .unassignedOp => 6 | .reservedField => 7

/-- Condition codes of CMP and BRC (R71). -/
def Cond.code : Cond → Nat
  | .eq => 0 | .ne => 1 | .lt => 2 | .ge => 3 | .ltu => 4 | .geu => 5 | .tst => 6

/-- The condition of a code; 7 is reserved (R71). -/
def Cond.ofCode : Nat → Option Cond
  | 0 => some .eq | 1 => some .ne | 2 => some .lt | 3 => some .ge | 4 => some .ltu | 5 => some .geu | 6 => some .tst
  | _ => none

/-- Width codes (R74). -/
def WCode.code : WCode → Nat
  | .w1 => 0 | .w3 => 1 | .w4 => 2 | .w6 => 3 | .w8 => 4 | .w16 => 5 | .w32 => 6 | .w64 => 7

/-- The width code of a 3-bit number (R74). -/
def WCode.ofCode : Nat → WCode
  | 0 => .w1 | 1 => .w3 | 2 => .w4 | 3 => .w6 | 4 => .w8 | 5 => .w16 | 6 => .w32 | _ => .w64

/-- Type codes (R176). -/
def Ty.code : Ty → Nat
  | .f32 => 0 | .bf16 => 1 | .f16 => 2 | .i32 => 3 | .n32 => 4 | .i16 => 5 | .n16 => 6 | .i8 => 7 | .n8 => 8
  | .mk8 => 9 | .mk6 => 10 | .mk4 => 11 | .mk3 => 12 | .i64 => 13 | .n64 => 14 | .b1 => 15

/-- The type of a 4-bit code (R176). -/
def Ty.ofCode : Nat → Ty
  | 0 => .f32 | 1 => .bf16 | 2 => .f16 | 3 => .i32 | 4 => .n32 | 5 => .i16 | 6 => .n16 | 7 => .i8 | 8 => .n8
  | 9 => .mk8 | 10 => .mk6 | 11 => .mk4 | 12 => .mk3 | 13 => .i64 | 14 => .n64 | _ => .b1

/-- Bit `k` of `w` as a Bool. -/
def bitB (w k : Nat) : Bool := w / 2 ^ k % 2 == 1
/-- A Bool as a bit. -/
def bitN (b : Bool) : Nat := if b then 1 else 0

/-- The token bits of word 0 (R26). -/
def Toks.ofWord (w0 : Nat) : Toks :=
  ⟨w0 / 2147483648 % 2 == 1, w0 / 1073741824 % 2 == 1, w0 / 536870912 % 2 == 1, w0 / 268435456 % 2 == 1⟩
/-- The token bits in place (R26). -/
def Toks.bits (t : Toks) : Nat :=
  bitN t.wb * 2147483648 + bitN t.wa * 1073741824 + bitN t.sb * 536870912 + bitN t.sa * 268435456

/-- The register fields d, a, b of word 0 (R35). -/
def fD (w0 : Nat) : Reg := Fin.ofNat 32 (w0 / 8192)
/-- Field a. -/
def fA (w0 : Nat) : Reg := Fin.ofNat 32 (w0 / 256)
/-- Field b. -/
def fB (w0 : Nat) : Reg := Fin.ofNat 32 (w0 / 8)

/-- The fields of a VW instruction from its two words (R35, R36). -/
def VW.ofWords (w0 w1 : Nat) : VW where
  tk := Toks.ofWord w0
  d := fD w0
  a := fA w0
  b := fB w0
  sub := Fin.ofNat 8 w0
  pred := Fin.ofNat 16 (w1 / 2097152)
  z := w1 / 1048576 % 2 == 1
  c := Fin.ofNat 32 (w1 / 32768)
  ty := Ty.ofCode (w1 / 2048 % 16)
  rm := Fin.ofNat 8 (w1 / 256)
  sat := w1 / 128 % 2 == 1
  mod := Fin.ofNat 128 w1

/-- The fields of an MW instruction from its two words (R35, R37). -/
def MW.ofWords (w0 w1 : Nat) : MW where
  tk := Toks.ofWord w0
  d := fD w0
  a := fA w0
  b := fB w0
  sub := Fin.ofNat 8 w0
  oc := Fin.ofNat 16 (w1 / 2097152)
  sc := Fin.ofNat 8 (w1 / 262144)
  ofs := Fin.ofNat 262144 w1

/-- The fields of an MS instruction from its two words (R35, R37). -/
def MS.ofWords (w0 w1 : Nat) : MS where
  tk := Toks.ofWord w0
  d := fD w0
  a := fA w0
  wm1 := Fin.ofNat 256 w0
  oc := Fin.ofNat 16 (w1 / 2097152)
  sc := Fin.ofNat 8 (w1 / 262144)
  ofs := Fin.ofNat 262144 w1

/-- What an opcode map gives: no instruction at all, a reserved value in a field, or an instruction. -/
inductive Dec where
  | unassigned
  | reserved
  | is (i : Instr)
  deriving DecidableEq, Repr

/-- `i` if the field condition holds, else a reserved value (R38). -/
def Dec.when (c : Bool) (i : Instr) : Dec := if c then .is i else .reserved

/-- The X short map (R39) on the low 18 bits of word 0 (R35). -/
def decodeShort (op w : Nat) : Dec :=
  let d := fD w; let a := fA w; let b := fB w; let sub := w % 8; let imm := w % 256
  match op with
  | 0 => .when (sub == 0) (.add d a b)
  | 1 => .when (sub == 0) (.sub d a b)
  | 2 => .when (sub == 0) (.mul d a b)
  | 3 => if sub == 0 then .is (.mulh d a b) else .when (sub == 1) (.mulhU d a b)
  | 4 => if sub == 0 then .is (.div d a b) else .when (sub == 1) (.divU d a b)
  | 5 => if sub == 0 then .is (.rem d a b) else .when (sub == 1) (.remU d a b)
  | 6 => .when (sub == 0) (.and d a b)
  | 7 => .when (sub == 0) (.or d a b)
  | 8 => .when (sub == 0) (.xor d a b)
  | 9 => .when (sub == 0) (.andn d a b)
  | 10 => .when (sub == 0) (.shl d a b)
  | 11 => .when (sub == 0) (.shr d a b)
  | 12 => .when (sub == 0) (.shra d a b)
  | 13 => .when (sub == 0) (.rot d a b)
  | 14 => if sub == 0 then .is (.min d a b) else .when (sub == 1) (.minU d a b)
  | 15 => if sub == 0 then .is (.max d a b) else .when (sub == 1) (.maxU d a b)
  | 16 => .when (imm == 0) (.clz d a)
  | 17 => .when (imm == 0) (.ctz d a)
  | 18 => .when (imm == 0) (.popc d a)
  | 19 => .when (imm == 0) (.brev d a)
  | 20 => .when (decide (imm < 64)) (.sext d a (Fin.ofNat 64 imm))
  | 21 => .when (decide (imm < 64)) (.zext d a (Fin.ofNat 64 imm))
  | 22 => match Cond.ofCode sub with | some cc => .is (.cmp cc d a b) | none => .reserved
  | 23 => .when (sub == 0) (.sel d a b)
  | 24 => if sub == 0 then .is (.clmul d a b) else .when (sub == 1) (.clmulHi d a b)
  | 25 => .is (.addi d a (BitVec.ofNat 8 imm))
  | 26 => .is (.andi d a (BitVec.ofNat 8 imm))
  | 27 => .is (.ori d a (BitVec.ofNat 8 imm))
  | 28 => .is (.xori d a (BitVec.ofNat 8 imm))
  | 29 => .when (decide (imm < 64)) (.shli d a (Fin.ofNat 64 imm))
  | 30 => .when (decide (imm < 64)) (.shri d a (Fin.ofNat 64 imm))
  | 31 => .when (decide (imm < 64)) (.shrai d a (Fin.ofNat 64 imm))
  | 32 => .is (.padd (WCode.ofCode sub) d a b)
  | 33 => .is (.pdiff (WCode.ofCode sub) d a b)
  | 34 => if imm < 64 then .is (.paln d a (Fin.ofNat 64 imm)) else .when (decide (imm < 128)) (.palnUp d a (Fin.ofNat 64 imm))
  | 35 => if imm == 0 then .is (.btob d a) else .when (imm == 1) (.btobUp d a)
  | 36 => .when (sub == 0) (.byte d a b)
  | 37 => .is (.pchk (WCode.ofCode sub) d a b)
  | 38 => .when (w / 4096 % 2 == 0) (.csrr d (Fin.ofNat 4096 w))
  | 39 => .when (w / 4096 % 2 == 0) (.csrw d (Fin.ofNat 4096 w))
  | 40 => .when (w / 4096 % 2 == 0) (.csrs d (Fin.ofNat 4096 w))
  | 41 => .when (w / 4096 % 2 == 0) (.csrc d (Fin.ofNat 4096 w))
  | 42 => .when (w / 256 % 1024 == 0 && decide (imm < 32)) (.ret (Fin.ofNat 32 imm))
  | 43 => .when (w % 262144 == 0) .hop
  | 44 => .when (w % 262144 == 0) .step
  | 45 => .when (w % 262144 == 0) .endTask
  | 46 => .when (w / 256 % 1024 == 0) (.trap (BitVec.ofNat 8 imm))
  | 47 => .when (w % 262144 == 0) .nop
  | 48 => .when (w / 256 % 1024 == 0) (.sysc (BitVec.ofNat 8 imm))
  | 49 => .when (w % 262144 == 0) .eret
  | 50 => 
      if a != 0 || imm % 4 == 3 then .reserved
      else if imm < 4 then .is (.fltr d (Fin.ofNat 3 imm)) else .when (decide (imm < 8)) (.fltrClr d (Fin.ofNat 3 (imm - 4)))
  | 51 => .when (w % 262144 == 0) .halt
  | _ => .unassigned

/-- The X long map (R39) on the low 18 bits of word 0 and the 25-bit payload of word 1 (R27, R35). -/
def decodeLong (op w p : Nat) : Dec :=
  let d := fD w; let a := fA w; let aux := w % 256; let imm := BitVec.ofNat 25 p
  match op with
  | 0 => .when (a == 0 && aux == 0) (.li d imm)
  | 1 => .when (a == 0 && aux == 0) (.lis d imm)
  | 2 => .when (w % 262144 == 0) (.br imm)
  | 3 => match Cond.ofCode (aux % 8) with | some cc => .when (aux / 8 == 0) (.brc cc d a imm) | none => .reserved
  | 4 => .when (a == 0 && aux == 0) (.call d imm)
  | 5 => .when (a == 0 && aux == 0) (.loop d imm)
  | 6 => .when (w % 262144 == 0) (.loopk imm)
  | 7 => .when (aux / 32 == 0 && p % 33554432 == 0) (.ctxsv d a (Fin.ofNat 32 aux))
  | 8 => .when (aux / 32 == 0 && p % 33554432 == 0) (.ctxrs d a (Fin.ofNat 32 aux))
  | 9 => .when (aux / 32 == 0 && p % 33554432 == 0) (.xlinv d a (Fin.ofNat 32 aux))
  | 10 => .when (aux == 0 && p % 33554432 == 0) (.bindq d a)
  | 11 => .when (aux == 0 && p % 33554432 == 0) (.tierq d a)
  | _ => .unassigned

/-- The F map (R39). PREF and PREF.ARR differ in sub (R156). -/
def decodeF (op w0 w1 : Nat) : Dec :=
  let x := MW.ofWords w0 w1
  match op with
  | 0 => .is (.fld x)
  | 1 => .is (.fldv x)
  | 2 => .is (.fldk x)
  | 3 => .is (.lds (MS.ofWords w0 w1))
  | 4 => .is (.fgath x)
  | 5 => .is (.wset x)
  | 6 => .is (.wadv x)
  | 7 => if x.sub == 1 then .is (.prefArr x) else .is (.pref x)
  | 8 => .is (.gset x)
  | 9 => .is (.xcpy x)
  | 10 => .is (.fldw x)
  | 11 => .is (.bwait x)
  | 12 => .is (.fenceF x)
  | 13 => .is (.attp x)
  | 14 => .is (.attl x)
  | 15 => .is (.strSeek x)
  | 16 => .is (.chnNxt x)
  | _ => .unassigned

/-- The M map (R39). -/
def decodeM (op w0 w1 : Nat) : Dec :=
  let x := VW.ofWords w0 w1
  match op with
  | 0 => .is (.mma x)
  | 1 => .is (.mmai x)
  | 2 => .is (.mmv x)
  | 3 => .is (.mz x)
  | 4 => .is (.macc x)
  | 5 => .is (.mwcp x)
  | 6 => .is (.mwclr x)
  | _ => .unassigned

/-- The V map (R39). -/
def decodeV (op w0 w1 : Nat) : Dec :=
  let x := VW.ofWords w0 w1
  match op with
  | 0 => .is (.vadd x)
  | 1 => .is (.vsub x)
  | 2 => .is (.vmul x)
  | 3 => .is (.vfma x)
  | 4 => .is (.vmin x)
  | 5 => .is (.vmax x)
  | 6 => .is (.vabs x)
  | 7 => .is (.vneg x)
  | 8 => .is (.vrcp x)
  | 9 => .is (.vrsq x)
  | 10 => .is (.vrefr x)
  | 11 => .is (.vrefq x)
  | 12 => .is (.vexp2 x)
  | 13 => .is (.vlog2 x)
  | 14 => .is (.vtanh x)
  | 16 => .is (.viadd x)
  | 17 => .is (.visub x)
  | 18 => .is (.vimul x)
  | 19 => .is (.vand x)
  | 20 => .is (.vor x)
  | 21 => .is (.vxor x)
  | 22 => .is (.vshl x)
  | 23 => .is (.vshr x)
  | 24 => .is (.vshra x)
  | 25 => .is (.vclmul x)
  | 26 => .is (.vcmp x)
  | 27 => .is (.vselp x)
  | 28 => .is (.vcvt x)
  | 29 => .is (.vqnt x)
  | 30 => .is (.vhad x)
  | 32 => .is (.vrotr x)
  | 33 => .is (.vrotc x)
  | 34 => .is (.vbcr x)
  | 35 => .is (.vbcc x)
  | 36 => .is (.vredr x)
  | 37 => .is (.vredc x)
  | 38 => .is (.vscnr x)
  | 39 => .is (.vscnc x)
  | 40 => .is (.vtrn x)
  | 41 => .is (.vcomp x)
  | 42 => .is (.vtopk x)
  | 43 => .is (.viota x)
  | 44 => .is (.vmov x)
  | 45 => .is (.vmovz x)
  | 46 => .is (.vmovs x)
  | 47 => .is (.vbcs x)
  | 48 => .is (.vldb x)
  | 49 => .is (.vstb x)
  | 50 => .is (.pand x)
  | 51 => .is (.por x)
  | 52 => .is (.pxor x)
  | 53 => .is (.pnot x)
  | 54 => .is (.pset x)
  | 55 => .is (.pcnt x)
  | 56 => .is (.pfrst x)
  | 57 => .is (.ppack x)
  | 58 => .is (.punpk x)
  | 59 => .is (.atmrg x)
  | _ => .unassigned

/-- The W map (R39). -/
def decodeW (op w0 w1 : Nat) : Dec :=
  let x := MW.ofWords w0 w1
  match op with
  | 0 => .is (.fst x)
  | 1 => .is (.fstv x)
  | 2 => .is (.sts (MS.ofWords w0 w1))
  | 3 => .is (.fscat x)
  | 4 => .is (.atom x)
  | 5 => .is (.red x)
  | 6 => .is (.copy x)
  | 7 => .is (.publ x)
  | 8 => .is (.shad x)
  | 9 => .is (.fenceW x)
  | 10 => .is (.bini x)
  | 11 => .is (.barr x)
  | 12 => .is (.mgrp x)
  | 13 => .is (.mrow x)
  | 14 => .is (.mcmt x)
  | 15 => .is (.invl x)
  | 16 => .is (.attf x)
  | 17 => .is (.strDep x)
  | 18 => .is (.strPin x)
  | 19 => .is (.strRel x)
  | 20 => .is (.strDrop x)
  | 21 => .is (.chnBeg x)
  | 22 => .is (.chnEnd x)
  | 23 => .is (.crmProm x)
  | 24 => .is (.crmDem x)
  | 25 => .is (.plcApp x)
  | 26 => .is (.plcUpd x)
  | _ => .unassigned

/-- Number of words of the instruction that begins with `w0`: L adds word 1 (R26). -/
def wordCount (w0 : Nat) : Nat := 1 + w0 / 16777216 % 2

/-- The engine tag of word 0 (R26). -/
def engTag (w0 : Nat) : Nat := w0 / 33554432 % 8

/-- The engine that a tag names; X (0) and the other tags name none (R26). -/
def tagEngine : Nat → Option Eng
  | 1 => some .f | 2 => some .m | 3 => some .v | 4 => some .w | _ => none

/-- Checks 6 and 7 of R40: the opcode map's answer, and every field rule of the instruction. -/
def finish : Dec → Except IllSub Instr
  | .unassigned => .error .unassignedOp
  | .reserved => .error .reservedField
  | .is i => if i.wf then .ok i else .error .reservedField

/-- The instruction that two words hold, by the checks of R40 in order. `w1` is looked at only when L is 1. -/
def decodeWords (w0 w1 : Nat) : Except IllSub Instr :=
  let tag := engTag w0
  let long := w0 / 16777216 % 2 == 1
  let op := w0 / 262144 % 64
  if tag == 5 || tag == 7 then .error .reservedTag
  else if tag == 6 then .error .strayContinuation
  else if tag == 0 && w0 / 268435456 % 16 != 0 then .error .tokenBitsOnX
  else if tag != 0 && !long then .error .shortWord
  else if long && w1 / 33554432 % 128 != 6 then .error .malformedContinuation
  else if tag == 0 then
    if long then finish (decodeLong op w0 (w1 % 33554432)) else finish (decodeShort op w0)
  else if tag == 1 then finish (decodeF op w0 w1)
  else if tag == 2 then finish (decodeM op w0 w1)
  else if tag == 3 then finish (decodeV op w0 w1)
  else finish (decodeW op w0 w1)

/-- A number from its bytes, least significant first (R5). -/
def natOfBytes : List Byte → Nat
  | [] => 0
  | b :: bs => b.toNat + 256 * natOfBytes bs

/-- `n` bytes of a number, least significant first (R5). -/
def bytesOfNat : Nat → Nat → List Byte
  | 0, _ => []
  | n + 1, v => BitVec.ofNat 8 v :: bytesOfNat n (v / 256)

/-- The instruction at the front of the bytes, and the bytes after it. -/
def decodeBytes (bs : List Byte) : Except Reject (Instr × List Byte) :=
  if bs.length < 4 then .error .truncated
  else
    let w0 := natOfBytes (bs.take 4)
    let n := 4 * wordCount w0
    if bs.length < n then .error .truncated
    else
      match decodeWords w0 (natOfBytes ((bs.drop 4).take 4)) with
      | .ok i => .ok (i, bs.drop n)
      | .error e => .error (.illegal e)

/-- The instruction that the decoder reads from the table's word: its `nbits` bits at the lowest addresses, zeros above,
up to the two words of the longest instruction. -/
def decodeTableWord (nbits w : Nat) : Option Instr :=
  match decodeBytes (bytesOfNat 8 (w % 2 ^ nbits)) with
  | .ok (i, _) => some i
  | .error _ => none

/-! The encoder. -/

/-- Word 0 from the token bits, the tag, L, the opcode and bits [17:0] (R26). -/
def word0 (tk tag l op low : Nat) : Nat := tk + tag * 33554432 + l * 16777216 + op * 262144 + low
/-- Word 1 from its payload (R27). -/
def word1 (p : Nat) : Nat := 201326592 + p
/-- Bits [17:0] in format XR, VW and MW (R35). -/
def lowR (d a b sub : Nat) : Nat := d * 8192 + a * 256 + b * 8 + sub
/-- Bits [17:0] in format XI and XL (R35). -/
def lowI (d a imm : Nat) : Nat := d * 8192 + a * 256 + imm

/-- The payload of vector word 1 (R36). -/
def VW.payload (x : VW) : Nat :=
  x.pred.val * 2097152 + bitN x.z * 1048576 + x.c.val * 32768 + x.ty.code * 2048 + x.rm.val * 256 + bitN x.sat * 128 + x.mod.val
/-- The payload of memory word 1 (R37). -/
def MW.payload (x : MW) : Nat := x.oc.val * 2097152 + x.sc.val * 262144 + x.ofs.val
/-- The payload of memory word 1 of LDS and STS (R37). -/
def MS.payload (x : MS) : Nat := x.oc.val * 2097152 + x.sc.val * 262144 + x.ofs.val

/-- The words of a VW instruction with the tag and opcode given. -/
def VW.words (tag op : Nat) (x : VW) : List Nat :=
  [word0 x.tk.bits tag 1 op (lowR x.d.val x.a.val x.b.val x.sub.val), word1 x.payload]
/-- The words of an MW instruction. -/
def MW.words (tag op : Nat) (x : MW) : List Nat :=
  [word0 x.tk.bits tag 1 op (lowR x.d.val x.a.val x.b.val x.sub.val), word1 x.payload]
/-- The words of an MS instruction. -/
def MS.words (tag op : Nat) (x : MS) : List Nat :=
  [word0 x.tk.bits tag 1 op (lowI x.d.val x.a.val x.wm1.val), word1 x.payload]
/-- An X short word. -/
def xShort (op low : Nat) : List Nat := [word0 0 0 0 op low]
/-- The words of an X long instruction. -/
def xLong (op low imm : Nat) : List Nat := [word0 0 0 1 op low, word1 imm]

/-- The words of an instruction (R26 to R39); a device event has none. -/
def encode : Instr → List Nat
  | .add d a b => xShort 0 (lowR d a b 0)
  | .sub d a b => xShort 1 (lowR d a b 0)
  | .mul d a b => xShort 2 (lowR d a b 0)
  | .mulh d a b => xShort 3 (lowR d a b 0)
  | .mulhU d a b => xShort 3 (lowR d a b 1)
  | .div d a b => xShort 4 (lowR d a b 0)
  | .divU d a b => xShort 4 (lowR d a b 1)
  | .rem d a b => xShort 5 (lowR d a b 0)
  | .remU d a b => xShort 5 (lowR d a b 1)
  | .and d a b => xShort 6 (lowR d a b 0)
  | .or d a b => xShort 7 (lowR d a b 0)
  | .xor d a b => xShort 8 (lowR d a b 0)
  | .andn d a b => xShort 9 (lowR d a b 0)
  | .shl d a b => xShort 10 (lowR d a b 0)
  | .shr d a b => xShort 11 (lowR d a b 0)
  | .shra d a b => xShort 12 (lowR d a b 0)
  | .rot d a b => xShort 13 (lowR d a b 0)
  | .min d a b => xShort 14 (lowR d a b 0)
  | .minU d a b => xShort 14 (lowR d a b 1)
  | .max d a b => xShort 15 (lowR d a b 0)
  | .maxU d a b => xShort 15 (lowR d a b 1)
  | .clz d a => xShort 16 (lowI d a 0)
  | .ctz d a => xShort 17 (lowI d a 0)
  | .popc d a => xShort 18 (lowI d a 0)
  | .brev d a => xShort 19 (lowI d a 0)
  | .sext d a n => xShort 20 (lowI d a n)
  | .zext d a n => xShort 21 (lowI d a n)
  | .cmp cc d a b => xShort 22 (lowR d a b cc.code)
  | .sel d a b => xShort 23 (lowR d a b 0)
  | .clmul d a b => xShort 24 (lowR d a b 0)
  | .clmulHi d a b => xShort 24 (lowR d a b 1)
  | .addi d a i => xShort 25 (lowI d a i.toNat)
  | .andi d a i => xShort 26 (lowI d a i.toNat)
  | .ori d a i => xShort 27 (lowI d a i.toNat)
  | .xori d a i => xShort 28 (lowI d a i.toNat)
  | .shli d a n => xShort 29 (lowI d a n)
  | .shri d a n => xShort 30 (lowI d a n)
  | .shrai d a n => xShort 31 (lowI d a n)
  | .padd wc d a b => xShort 32 (lowR d a b wc.code)
  | .pdiff wc d a b => xShort 33 (lowR d a b wc.code)
  | .paln d a n => xShort 34 (lowI d a n)
  | .palnUp d a n => xShort 34 (lowI d a (64 + n))
  | .btob d a => xShort 35 (lowI d a 0)
  | .btobUp d a => xShort 35 (lowI d a 1)
  | .byte d a b => xShort 36 (lowR d a b 0)
  | .pchk wc d a b => xShort 37 (lowR d a b wc.code)
  | .csrr r n => xShort 38 (r * 8192 + n)
  | .csrw r n => xShort 39 (r * 8192 + n)
  | .csrs r n => xShort 40 (r * 8192 + n)
  | .csrc r n => xShort 41 (r * 8192 + n)
  | .ret n => xShort 42 (n)
  | .hop => xShort 43 (0)
  | .step => xShort 44 (0)
  | .endTask => xShort 45 (0)
  | .trap n => xShort 46 (n.toNat)
  | .nop => xShort 47 (0)
  | .sysc n => xShort 48 (n.toNat)
  | .eret => xShort 49 (0)
  | .fltr d k => xShort 50 (lowI d 0 k)
  | .fltrClr d k => xShort 50 (lowI d 0 (4 + k))
  | .halt => xShort 51 (0)
  | .li d i => xLong 0 (lowI d 0 0) i.toNat
  | .lis d i => xLong 1 (lowI d 0 0) i.toNat
  | .br i => xLong 2 0 i.toNat
  | .brc cc d a i => xLong 3 (lowI d a cc.code) i.toNat
  | .call d i => xLong 4 (lowI d 0 0) i.toNat
  | .loop d i => xLong 5 (lowI d 0 0) i.toNat
  | .loopk i => xLong 6 0 i.toNat
  | .ctxsv d a b => xLong 7 (lowI d a b) 0
  | .ctxrs d a b => xLong 8 (lowI d a b) 0
  | .xlinv d a b => xLong 9 (lowI d a b) 0
  | .bindq d a => xLong 10 (lowI d a 0) 0
  | .tierq d a => xLong 11 (lowI d a 0) 0
  | .fld x => x.words 1 0
  | .fldv x => x.words 1 1
  | .fldk x => x.words 1 2
  | .lds x => x.words 1 3
  | .fgath x => x.words 1 4
  | .wset x => x.words 1 5
  | .wadv x => x.words 1 6
  | .pref x => x.words 1 7
  | .prefArr x => x.words 1 7
  | .gset x => x.words 1 8
  | .xcpy x => x.words 1 9
  | .fldw x => x.words 1 10
  | .bwait x => x.words 1 11
  | .fenceF x => x.words 1 12
  | .attp x => x.words 1 13
  | .attl x => x.words 1 14
  | .strSeek x => x.words 1 15
  | .chnNxt x => x.words 1 16
  | .mma x => x.words 2 0
  | .mmai x => x.words 2 1
  | .mmv x => x.words 2 2
  | .mz x => x.words 2 3
  | .macc x => x.words 2 4
  | .mwcp x => x.words 2 5
  | .mwclr x => x.words 2 6
  | .vadd x => x.words 3 0
  | .vsub x => x.words 3 1
  | .vmul x => x.words 3 2
  | .vfma x => x.words 3 3
  | .vmin x => x.words 3 4
  | .vmax x => x.words 3 5
  | .vabs x => x.words 3 6
  | .vneg x => x.words 3 7
  | .vrcp x => x.words 3 8
  | .vrsq x => x.words 3 9
  | .vrefr x => x.words 3 10
  | .vrefq x => x.words 3 11
  | .vexp2 x => x.words 3 12
  | .vlog2 x => x.words 3 13
  | .vtanh x => x.words 3 14
  | .viadd x => x.words 3 16
  | .visub x => x.words 3 17
  | .vimul x => x.words 3 18
  | .vand x => x.words 3 19
  | .vor x => x.words 3 20
  | .vxor x => x.words 3 21
  | .vshl x => x.words 3 22
  | .vshr x => x.words 3 23
  | .vshra x => x.words 3 24
  | .vclmul x => x.words 3 25
  | .vcmp x => x.words 3 26
  | .vselp x => x.words 3 27
  | .vcvt x => x.words 3 28
  | .vqnt x => x.words 3 29
  | .vhad x => x.words 3 30
  | .vrotr x => x.words 3 32
  | .vrotc x => x.words 3 33
  | .vbcr x => x.words 3 34
  | .vbcc x => x.words 3 35
  | .vredr x => x.words 3 36
  | .vredc x => x.words 3 37
  | .vscnr x => x.words 3 38
  | .vscnc x => x.words 3 39
  | .vtrn x => x.words 3 40
  | .vcomp x => x.words 3 41
  | .vtopk x => x.words 3 42
  | .viota x => x.words 3 43
  | .vmov x => x.words 3 44
  | .vmovz x => x.words 3 45
  | .vmovs x => x.words 3 46
  | .vbcs x => x.words 3 47
  | .vldb x => x.words 3 48
  | .vstb x => x.words 3 49
  | .pand x => x.words 3 50
  | .por x => x.words 3 51
  | .pxor x => x.words 3 52
  | .pnot x => x.words 3 53
  | .pset x => x.words 3 54
  | .pcnt x => x.words 3 55
  | .pfrst x => x.words 3 56
  | .ppack x => x.words 3 57
  | .punpk x => x.words 3 58
  | .atmrg x => x.words 3 59
  | .fst x => x.words 4 0
  | .fstv x => x.words 4 1
  | .sts x => x.words 4 2
  | .fscat x => x.words 4 3
  | .atom x => x.words 4 4
  | .red x => x.words 4 5
  | .copy x => x.words 4 6
  | .publ x => x.words 4 7
  | .shad x => x.words 4 8
  | .fenceW x => x.words 4 9
  | .bini x => x.words 4 10
  | .barr x => x.words 4 11
  | .mgrp x => x.words 4 12
  | .mrow x => x.words 4 13
  | .mcmt x => x.words 4 14
  | .invl x => x.words 4 15
  | .attf x => x.words 4 16
  | .strDep x => x.words 4 17
  | .strPin x => x.words 4 18
  | .strRel x => x.words 4 19
  | .strDrop x => x.words 4 20
  | .chnBeg x => x.words 4 21
  | .chnEnd x => x.words 4 22
  | .crmProm x => x.words 4 23
  | .crmDem x => x.words 4 24
  | .plcApp x => x.words 4 25
  | .plcUpd x => x.words 4 26
  | .skipWord _ | .illegalInstruction _ _ | .tokenPop _ _ _ | .tokenPush _ | .tokenDeadlockFault
  | .handOverCopyDone _ _ | .slabMove _ _ _ | .slabMoveRetry _ _ _ | .partsRequestReturn _ _ | .lowerTierDeadline _
  | .append _ _ _ | .schedulerIssue | .periodBoundary | .communicationStep _ | .bteCommand _ | .launchFinish _
  | .watchdogFault _ | .preemptionStrike _ | .preemptionDeadline _ | .promotion | .promotionPublish | .demotion
  | .pageWalk _ _ | .hotRowRefresh _ _ _ | .stackEngineWatchdog _ | .clearingEngineRow _ | .sramScrub _
  | .dramScrub _ | .recordWrite _ _ | .pactActivate _ _ | .pactReset _ | .pactDisable _ | .pbindWrite _ _
  | .preqPreempt _ _ | .preqResume _ _ | .rcvrReplay _ _ _ | .rcvrRebindReplay _ _ _ _ | .rcvrAbort _ _ _
  | .fdemRole _ _ _ _ | .fdemObject _ _ _ | .qcfgWrite _ _ _ | .wakeWrite _ | .pstlLoad | .functionLevelReset _
  | .hostMemoryRead _ _ _ | .hostMemoryWrite _ _ _ | .rootMailboxWrite _ | .berastRd _ | .berastWr _ | .berastAtom _
  | .berastBar _ | .berastRedp _ | .berastChnb _ | .berastPlcd _ | .berastRdr _ | .berastAck _ | .berastAtr _
  | .berastBrs _ | .berastRedm _ | .berastErr _ | .berastFlitDrop _ | .portDown _ | .churnStepSend _
  | .churnOpenTimeout _ | .oszinRd _ _ | .oszinWr _ _ | .gopen _ _ | .grow _ _ | .gcmt _ _ | .gabt _ _ | .slot _ _
  | .idrd _ _ | .reprd _ _ | .rste _ _ | .clrs _ _ | .esans _ _ | .oszinRdr _ _ | .oszinAck _ _ | .gdone _ _
  | .blk _ _ | .wdog _ _ | .rstd _ _ | .clrd _ _ | .escmd _ _ | .esreqRd _ _ | .esreqWr _ _ | .esreqAtom _ _
  | .esreqBar _ _ | .esreqRedp _ _ | .oszinErr _ _ | .oszinMalformedFlit _ _ | .oszinLinkLost _
  | .flashMemoryRead _ _ | .flashDeferrableWrite _ _ | .flashRequestRetry _ | .flashEngineRequest _
  | .flashEngineAnswer _ | .flashQueueWork _ | .flashQueueWorkAnswer _ _ _ _ | .dieBlockClear _ _
  | .dieEngineReset _ _ | .flashLinkLost _ | .powerOn _ _ _ _ | .powerLoss | .thermalThrottle _ | .thermalTrip
  | .prefetchArrival | .activationWindowEnd _ | .queueReset _ _ | .launchAbort _ _ | .attestationReport _ _
  | .imageMeasurement _ _ _ => []

/-- The bytes of an instruction at rising addresses: each word least significant byte first (R5). -/
def encodeBytes (i : Instr) : List Byte := (encode i).flatMap (bytesOfNat 4)

end Sys2Proof
end

