-- ==== Sys2Proof/Machine/Sparse.lean ====
section
/-! DEFINITION. Finite maps in canonical form: pairs with rising keys, none holding the map's default. -/

namespace Sys2Proof

/-- Every key is at least `lo` and larger than those before it. -/
def Sparse.rising {α : Type} : Nat → Sparse α → Bool
  | _, [] => true
  | lo, (j, _) :: m => decide (lo ≤ j) && Sparse.rising (j + 1) m

/-- The canonical form of a map with default `d`: rising keys, and no value equal to the default. -/
def Sparse.wf {α : Type} [DecidableEq α] (d : α) (m : Sparse α) : Bool := Sparse.rising 0 m && m.all fun x => decide (x.2 ≠ d)

/-- The value at `k`. -/
def Sparse.get {α : Type} (d : α) : Sparse α → Nat → α
  | [], _ => d
  | (j, x) :: m, k => if j = k then x else Sparse.get d m k

/-- `n` values from key `lo` on, of a map with rising keys that are all at least `lo`. -/
def Sparse.sliceFrom {α : Type} (d : α) : Sparse α → Nat → Nat → List α
  | _, _, 0 => []
  | [], lo, n + 1 => d :: Sparse.sliceFrom d [] (lo + 1) n
  | (j, x) :: m, lo, n + 1 =>
    if j = lo then x :: Sparse.sliceFrom d m (lo + 1) n else d :: Sparse.sliceFrom d ((j, x) :: m) (lo + 1) n

/-- The values at keys `lo` to `lo + n - 1`: in one pass where the keys rise, else one by one. -/
def Sparse.slice {α : Type} (d : α) (m : Sparse α) (lo n : Nat) : List α :=
  let part := m.filter fun x => decide (lo ≤ x.1) && decide (x.1 < lo + n)
  if Sparse.rising lo part then Sparse.sliceFrom d part lo n else (List.range n).map fun i => Sparse.get d part (lo + i)

/-- The entries that list values from key `lo` on; values equal to the default are not listed. -/
def Sparse.entries {α : Type} [DecidableEq α] (d : α) : Nat → List α → Sparse α
  | _, [] => []
  | lo, x :: xs => if x = d then Sparse.entries d (lo + 1) xs else (lo, x) :: Sparse.entries d (lo + 1) xs

/-- Replaces all that a map lists for keys `lo` to `lo + n - 1` by the entries of `new`, whose keys lie there. -/
def Sparse.overlay {α : Type} (m : Sparse α) (lo n : Nat) (new : Sparse α) : Sparse α :=
  let rest := m.filter fun x => decide (x.1 < lo) || decide (lo + n ≤ x.1)
  (rest.takeWhile fun x => x.1 < lo) ++ (new ++ rest.dropWhile fun x => x.1 < lo)

/-- Replaces the values at keys `lo`, `lo + 1`, … by those of the list. -/
def Sparse.splice {α : Type} [DecidableEq α] (d : α) (m : Sparse α) (lo : Nat) (xs : List α) : Sparse α :=
  m.overlay lo xs.length (Sparse.entries d lo xs)

/-- Replaces the value at one key. -/
def Sparse.put {α : Type} [DecidableEq α] (d : α) (m : Sparse α) (k : Nat) (x : α) : Sparse α := m.splice d k [x]

/-- The canonical form of a list of entries: itself where it is canonical. -/
def Sparse.mend {α : Type} [DecidableEq α] (d : α) (m : Sparse α) : Sparse α :=
  if Sparse.wf d m then m else m.foldr (fun x m => m.put d x.1 x.2) []

/-- Two maps with rising keys as one: `f` joins the values at a key of both; the fuel is the number of their entries. -/
def Sparse.merge {α : Type} (f : α → α → α) : Nat → Sparse α → Sparse α → Sparse α
  | 0, m, _ => m
  | _, [], m => m
  | _, m, [] => m
  | n + 1, (i, x) :: a, (j, y) :: b =>
    if i < j then (i, x) :: Sparse.merge f n a ((j, y) :: b)
    else if j < i then (j, y) :: Sparse.merge f n ((i, x) :: a) b
    else (i, f x y) :: Sparse.merge f n a b

/-- The value listed for `k` in a table without a default. -/
def assoc {α : Type} : List (Nat × α) → Nat → Option α
  | [], _ => none
  | (j, x) :: m, k => if j = k then some x else assoc m k

/-- Enters a value into a table in key order, in place of the one it holds for that key. -/
def assocPut {α : Type} : List (Nat × α) → Nat → α → List (Nat × α)
  | [], k, x => [(k, x)]
  | (j, y) :: m, k, x => if j < k then (j, y) :: assocPut m k x else if j = k then (k, x) :: m else (k, x) :: (j, y) :: m

/-- Removes a key from a table. -/
def assocDrop {α : Type} (m : List (Nat × α)) (k : Nat) : List (Nat × α) := m.filter fun x => x.1 != k

/-- Enters a number into a rising list without repeats. -/
def insertNat : List Nat → Nat → List Nat
  | [], k => [k]
  | j :: m, k => if j < k then j :: insertNat m k else if j = k then j :: m else k :: j :: m

end Sys2Proof
end

