-- ==== Sys2Proof/Machine/Bits.lean ====
section
/-! DEFINITION. Bit fields, signed views, byte order (R5) and carry-less products, over natural numbers and 64-bit words. -/

namespace Sys2Proof

/-- Bits lo to lo + n - 1 of x. -/
def field (x lo n : Nat) : Nat := x / 2 ^ lo % 2 ^ n

/-- Bits lo to lo + n - 1 of a word. -/
def wField (x : Word) (lo n : Nat) : Nat := field x.toNat lo n

/-- The signed view of a w-bit pattern (R71). -/
def signed (w x : Nat) : Int := if x % 2 ^ w < 2 ^ (w - 1) then (x % 2 ^ w : Nat) else ((x % 2 ^ w : Nat) : Int) - (2 ^ w : Nat)

/-- The w-bit pattern of an integer. -/
def pattern (w : Nat) (x : Int) : Nat := (x % ((2 ^ w : Nat) : Int)).toNat

/-- The signed view of a word. -/
def wSigned (x : Word) : Int := x.toInt

/-- The word of an integer, mod 2^64. -/
def wOfInt (x : Int) : Word := BitVec.ofInt 64 x

/-- A word from a number, mod 2^64. -/
def wOf (n : Nat) : Word := BitVec.ofNat 64 n

/-- Position of the highest 1; 0 for 0. -/
def msb (x : Nat) : Nat := Nat.log2 x

/-- The 1 bits among the low n bits. -/
def ones (n x : Nat) : Nat := (List.range n).foldl (fun a i => a + x / 2 ^ i % 2) 0

/-- The low n bits in reversed order. -/
def reversed (n x : Nat) : Nat := (List.range n).foldl (fun a i => 2 * a + x / 2 ^ i % 2) 0

/-- The carry-less product with the low n bits of b. -/
def clmulNat (n a b : Nat) : Nat := (List.range n).foldl (fun p i => if b.testBit i then p ^^^ (a <<< i) else p) 0

/-- Leading zeros of an n-bit pattern. -/
def leading (n x : Nat) : Nat := if x % 2 ^ n = 0 then n else n - 1 - msb (x % 2 ^ n)

/-- Trailing zeros of an n-bit pattern. -/
def trailing (n x : Nat) : Nat := ((List.range n).find? fun i => x.testBit i).getD n

/-- `n` bits at bit position `bit` of a byte map (R5). -/
def readBits (m : Sparse Byte) (bit n : Nat) : Nat :=
  field (natOfBytes (m.slice 0 (bit / 8) ((bit % 8 + n + 7) / 8))) (bit % 8) n

/-- Replaces the bits at position `bit`, `n` of them, of a number by x. -/
def setField (old bit n x : Nat) : Nat :=
  old % 2 ^ bit + (x % 2 ^ n) * 2 ^ bit + old / 2 ^ (bit + n) * 2 ^ (bit + n)

/-- Writes `n` bits at bit position `bit` of a byte map (R5). -/
def writeBits (m : Sparse Byte) (bit n x : Nat) : Sparse Byte :=
  if n = 0 then m
  else
    let k := (bit % 8 + n + 7) / 8
    let old := natOfBytes (m.slice 0 (bit / 8) k)
    m.splice 0 (bit / 8) (bytesOfNat k (setField old (bit % 8) n x))

/-- Numbers from consecutive w-bit fields, the lowest first. -/
def unpack (w : Nat) : Nat → Nat → List Nat
  | 0, _ => []
  | n + 1, x => x % 2 ^ w :: unpack w n (x / 2 ^ w)

/-- Consecutive w-bit fields, the lowest first. -/
def pack (w : Nat) : List Nat → Nat
  | [] => 0
  | x :: xs => x % 2 ^ w + 2 ^ w * pack w xs

/-- Consecutive groups of g elements. -/
def groupsOf {α : Type} (g : Nat) (xs : List α) : List (List α) :=
  (List.range ((xs.length + g - 1) / g)).map fun k => (xs.drop (g * k)).take g

/-- Applies a step to each element in turn, stopping at the first failure. -/
def eachM {σ ε α : Type} (f : σ → α → Except ε σ) : List α → σ → Except ε σ
  | [], s => .ok s
  | x :: xs, s =>
    match f s x with
    | .ok s' => eachM f xs s'
    | .error e => .error e

/-- The results of a step on each element, or the first failure. -/
def mapEach {ε α β : Type} (f : α → Except ε β) : List α → Except ε (List β)
  | [] => .ok []
  | x :: xs =>
    match f x with
    | .ok y =>
      match mapEach f xs with
      | .ok ys => .ok (y :: ys)
      | .error e => .error e
    | .error e => .error e

end Sys2Proof
end

