-- ==== Sys2Proof/Machine/State.lean ====
section
/-! DEFINITION. The state of the module: everything the spec gives it, as plain data (R14, R20, R65, R257 to R281, R288 to
R302, R322, R361 to R386, R390 to R409, R422 to R430, R435 to R453). Operations stand in the other files of Machine/. -/

namespace Sys2Proof.Machine

/-- The module cannot step. -/
inductive Fault where
  /-- Raised by `step` alone, when the module has no input power or a thermal trip has stopped it (R453, R454) and the
  next turn is not its being powered on. Safe: the module executes nothing then. -/
  | stopped
  deriving DecidableEq, Repr

/-- No meaning is given. -/
inductive Refusal where
  /-- Raised by an arm of `exec` for a row of the opcode table that has no meaning yet. Safe: nothing runs. -/
  | notModelled (mnemonic : String)
  deriving DecidableEq, Repr

/-- The operands of a fault (R388, R389): class and sub-cause, and OPA, OPB, OPC of its record (R428). -/
structure Trap where
  cls : Nat
  sub : Nat
  a : Word
  b : Word
  c : Word
  deriving DecidableEq, Repr

/-- The modes (R411). -/
inductive Mode where
  | tile | control | root
  deriving DecidableEq, Repr

/-- What an engine does or waits on (R106, R107). -/
inductive Wait where
  /-- it may issue -/
  | run
  /-- to pop from the FIFOs of the mask (R99) -/
  | pop (mask : Nat)
  /-- to push into the FIFOs of the mask, all of them pushes of its last retired instruction (R99) -/
  | push (mask : Nat)
  /-- on the slip window (R104) -/
  | slip
  /-- it stands at the meeting word with this OP (R83, R413) -/
  | meet (op : Nat)
  /-- stopped at END (R83) -/
  | ended
  /-- a memory wait: the instruction at its pc is issued again at its next turn, its tokens already popped -/
  | memory
  deriving DecidableEq, Repr

/-- A wait at a barrier's home slice of this core's BWAIT or BARR (R122 to R124). -/
inductive BarWait where
  | idle
  /-- it waits at the record at this byte address for this phase; the instruction has these token bits -/
  | waiting (rec : Nat) (phase : Word) (tk : Toks)
  /-- the home slice has answered: the status word of BWAIT -/
  | answered (v : Word)
  deriving DecidableEq, Repr

/-- A scalar update on its way (R60): number `num` of its maker. -/
structure Update where
  maker : Eng
  num : Nat
  reg : Nat
  val : Word
  deriving DecidableEq, Repr

/-- A token: for each maker, the number of its updates the token carries, always the first ones (R60, R409). -/
abbrev Token := Quad Nat

/-- The state of one core or unit (R14, R411), with what binds it to a task (R16). All zero after a partition reset. -/
structure Core where
  pc : Quad Word
  pass : Quad Word
  /-- s_r of engine e at 32e + r (R14, R58) -/
  scal : Sparse Word
  /-- CSR n of engine e at 256e + n (R65) -/
  csr : Sparse Word
  /-- lane (i, c) of physical register j at 1024j + 64i + c (R14, R80) -/
  vreg : Sparse Lane
  /-- lane (i, c) of accumulator j at 1024j + 64i + c (R14) -/
  acc : Sparse Lane
  /-- row i of predicate j at 16j + i, column c in bit c (R14) -/
  pred : Sparse Word
  /-- the 128 bytes of generator g at 128g + o (R139) -/
  gen : Sparse Byte
  /-- the 64 bytes of window w at 64w + o (R149) -/
  win : Sparse Byte
  /-- scratchpad bytes (R14) -/
  pad : Sparse Byte
  /-- weight-store bytes, slab j at 12288j (R203) -/
  wst : Sparse Byte
  /-- scale images, slab j at 1024j (R204) -/
  scl : Sparse Byte
  /-- tokens of FIFO k, head first, at key k (R22, R98) -/
  fifo : Sparse (List Token)
  upds : List Update
  /-- updates each engine has made since the task began -/
  made : Quad Nat
  /-- `known e m`: how many of maker m's updates the copy of engine e has received (R60) -/
  known : Quad (Quad Nat)
  wait : Quad Wait
  /-- the instruction at the engine's pc has already popped these tokens, head token of each FIFO named (R99) -/
  popped : Quad (List (Nat × Token))
  /-- the turn of that pop: the argument of its free choices (log 2) -/
  popAt : Quad Nat
  /-- the program counter and the instruction whose words the engine has fetched: one that waits is not fetched again (R32, R34; log 2) -/
  held : Quad (Option (Word × Instr))
  /-- the source bank of an XCPY that a pre-emption has abandoned, as its first issue read it (R406, R407) -/
  staged : Option (Sparse Byte)
  /-- BWAIT of F and BARR of W at their home slices -/
  fBar : BarWait
  wBar : BarWait
  /-- lines of the constant cache, most recently used first: number of the line and its bytes (R153) -/
  kcache : List (Nat × List Byte)
  /-- parts of the split MMA or MMAI at M's pc that have returned: their holders (R216) -/
  parts : List CoreId
  mode : Mode
  part : Nat
  owner : Option TaskId
  /-- the class of the fault on which the task stands stopped (R41, R390) -/
  stopped : Option Nat
  /-- slabs held at another unit: slab j at key j, holder + 1 (R302) -/
  holder : Sparse Nat
  /-- defective, left out of every binding (R9). The spec gives firmware no register and no event to mark a unit that fails later, so no step
  sets this (DESIGN CHOICE, log 7) -/
  defective : Bool
  deriving DecidableEq, Repr

/-- A unit with all state zero (R15, R378). -/
def Core.zero : Core where
  pc := .const 0
  pass := .const 0
  scal := []
  csr := []
  vreg := []
  acc := []
  pred := []
  gen := []
  win := []
  pad := []
  wst := []
  scl := []
  fifo := []
  upds := []
  made := .const 0
  known := .const (.const 0)
  wait := .const .run
  popped := .const []
  popAt := .const 0
  held := .const none
  staged := none
  fBar := .idle
  wBar := .idle
  kcache := []
  parts := []
  mode := .tile
  part := 0
  owner := none
  stopped := none
  holder := []
  defective := false

/-- An open shadow region (R126): its launch, base bit address, the physical byte ranges (base, bytes) of its sectors. -/
structure Shadow where
  launch : LaunchId
  part : Nat
  base : Word
  bits : Nat
  ranges : List (Nat × Nat)
  deriving DecidableEq, Repr

/-- Who makes a request of a barrier or home slice: a core's instruction, the completion of a command (R134), or a request
over Berast, Oszin or a flash link (R441, R447, R451). -/
inductive Asker where
  | core (k : CoreId)
  | completion
  | berast (x : Flit)
  | oszin (stack : Nat) (x : OFlit)
  | flash (x : FlashMsg)
  deriving DecidableEq, Repr

/-- An arrival that waits at a barrier until its phase is near enough (R123). -/
structure Arrival where
  rcd : Nat
  phase : Word
  status : Word
  part : Nat
  ref : Word
  who : Asker
  deriving DecidableEq, Repr

/-- Memory, its caches and what the home slices hold. -/
structure Memory where
  /-- cells (Host.Cell) by physical byte address (R20), unit windows excepted; an unlisted byte reads 0 -/
  bytes : Sparse Byte
  /-- stored check bytes of a sector where they are not the code of its bytes, plus 2^32 (R401, R402) -/
  check : Sparse Nat
  /-- 4 KiB units of the flash tier that fail their code and their CRC (R450) -/
  badUnits : List Nat
  /-- clear-pending DRAM rows: intervals (first, one past the last) of row keys (R379) -/
  clrRows : List (Nat × Nat)
  /-- clear-pending flash blocks: intervals of 1 MiB blocks of the flash tier (R380) -/
  clrBlocks : List (Nat × Nat)
  /-- lines in L2 and dirty sectors, by number (R156, R157, R170) -/
  lines : List Nat
  dirty : List Nat
  /-- cached translations: partition, page number, table entry and level (R371) -/
  tlb : List (Nat × Nat × Nat × Nat)
  shadows : List Shadow
  /-- shadow copies: sector number, 2^128 + its 16 bytes (R127) -/
  shadowData : Sparse Nat
  arrivals : List Arrival
  /-- former words of running tasks' text, by word address: the launch and each value that has been replaced since it began (R34) -/
  oldText : Sparse (List (LaunchId × Nat))
  /-- waits of BWAIT requests from outside the cores: record, phase and asker (R124, R441) -/
  waits : List (Nat × Word × Asker)
  deriving DecidableEq, Repr

/-- A partition record (R361), by field, and its measurement register (R386). -/
structure Part where
  slc : Nat
  core : Nat
  flash : Nat
  vfn : Nat
  lend : Bool
  enabled : Bool
  ptr : Nat
  fnb : Nat
  fnl : Nat
  meas : List Byte
  log : List (Nat × List Byte)
  /-- it has been enabled since it was last reset (R362, R378) -/
  used : Bool
  /-- resources it has given up that no other partition has taken: SLC, CORE, FLASH, first byte and bytes of namespace (R264, R378) -/
  left : List (Nat × Nat × Nat × Nat × Nat)
  deriving DecidableEq, Repr

def Part.zero : Part := ⟨0, 0, 0, 0, false, false, 0, 0, 0, [], [], false, []⟩

/-- A launch queue (R259, R263, R264, R270). -/
structure Queue where
  cfg : Word
  /-- the configuration word written, in force from the next period boundary (R263) -/
  next : Word
  acc : Nat
  ref : Nat
  fin : Nat
  balance : Int
  debt : Nat
  /-- pending records, oldest first: sequence number and the eight words (R259) -/
  pending : List (Nat × List Word)
  /-- no launch pending, held or running since the period began (R272) -/
  idle : Bool
  /-- CCNT at which its issue became ready (R273) -/
  since : Option Word
  /-- it has issued since the period began (R273) -/
  issued : Bool
  /-- completion arrivals of its launches that may still wait to be counted: reference and phase (R268) -/
  arrivals : List (Word × Word)
  deriving DecidableEq, Repr

def Queue.zero : Queue := ⟨6, 6, 0, 0, 0, 0, 0, [], true, none, false, []⟩

/-- One row operation of a command group: destination row and, for COPY, source row, as row keys (R168). -/
structure RowOp where
  dst : Nat
  src : Option Nat
  deriving DecidableEq, Repr

/-- An open command group (R167, R170). -/
structure Group where
  stack : Nat
  ops : List RowOp
  aborted : Bool
  /-- the slice whose stack engine's sequencer MGRP has selected by its address; none of a group that a link has opened (R167; log 12) -/
  seq : Option Nat
  /-- numbers of the virtual 64 KiB pages by which MROW has reached its rows (R371) -/
  pages : List Nat
  deriving DecidableEq, Repr

/-- One end of a COPY (R164): memory, its virtual bit address and its physical bit ranges, or bits of a role's scratchpad or weight store. -/
inductive Place where
  | mem (va : Nat) (segs : List (Nat × Nat))
  | pad (role ofs : Nat)
  | wst (role ofs : Nat)
  deriving DecidableEq, Repr

/-- A queued command (R121, R164, R165). -/
inductive Work where
  | copy (src dst : Place) (bits : Nat)
  /-- contribution to the window whose record lies at this bit address -/
  | red (rec : Nat)
  deriving DecidableEq, Repr

structure Cmd where
  notBefore : Nat
  role : Nat
  pos : Nat
  work : Work
  deriving DecidableEq, Repr

/-- A reduction window as read at its first RED of the superstep (R130, R165). -/
structure RedWin where
  rcd : Nat
  base : Nat
  n : Nat
  ty : Ty
  spans : Bool
  /-- bit address of the time-slot table -/
  tbl : Nat
  table : List Nat
  dest : List (Nat × Nat)
  /-- contributions: role, its elements, in the order queued -/
  got : List (Nat × List Nat)
  deriving DecidableEq, Repr

/-- Where a launch stands. -/
inductive Phase where
  | running
  /-- every task has arrived and the communication step runs (R120) -/
  | comm
  /-- the boundary is done and the release waits for its issue (R274) -/
  | held
  deriving DecidableEq, Repr

/-- Pre-emption of a launch (R279, R424). -/
inductive Preempt where
  | none | pending | saved
  deriving DecidableEq, Repr

/-- A running launch (R261, R266, R274). -/
structure Launch where
  part : Nat
  queue : Nat
  seq : Nat
  hdr : Word
  n : Nat
  /-- binding entries of the roles (R17) -/
  table : List Word
  bindAt : Word
  /-- where the text of its tasks lies in memory: physical byte ranges (R34, R50) -/
  text : List (Nat × Nat)
  group : Word
  arg : Word
  cv : Bool
  cref : Word
  cphs : Word
  wdg : Nat
  /-- order of its start among all launches (R275) -/
  order : Nat
  /-- CCNT at the start or the last release (R275) -/
  released : Word
  phase : Phase
  /-- roles that stand at STEP and roles that have ended (R83) -/
  arrived : List Nat
  ended : List Nat
  cmds : List Cmd
  /-- not-before time, role and position of the last command that its communication step has run (R121, R405) -/
  ran : Option (Nat × Nat × Nat)
  wins : List RedWin
  /-- windows that span modules, as its REDs of earlier supersteps have named them (R130, R132) -/
  spanning : List RedWin
  /-- pending hand-over and forced-demotion entries by role, plus 2^32 (R297, R304) -/
  pbind : Sparse Nat
  fdem : Sparse Nat
  /-- roles whose hand-over copy is in progress: role, the entry, forced (R300) -/
  moving : List (Nat × Word × Bool)
  preempt : Preempt
  /-- CCNT at the request of a pending pre-emption (R279) -/
  asked : Word
  /-- replay slot of each role (R391) -/
  slots : List Nat
  charged : Nat
  /-- status with which it is to be aborted at the boundary (R404, R446) -/
  doom : Option Nat
  /-- status with which it has ended, while its nodes are settled (R276, R328) -/
  ending : Option Nat
  deriving DecidableEq, Repr

/-- An open Churn ring of a task (R330, R350). -/
structure Ring where
  rid : Nat
  slots : Nat
  bank : Nat
  bytes : Nat
  period : Word
  t0 : Word
  members : List (Nat × Nat)
  me : Nat
  own : Nat
  /-- CHN.NXTs retired, sends made, and bytes received of each step -/
  nexts : Nat
  sent : Nat
  got : Sparse Nat
  /-- CHN.BEG has not retired; CHN.END or END counts for the rest (R353) -/
  opening : Bool
  closing : Bool
  /-- the predecessor's n, S and block size are those of this member (R351) -/
  checked : Bool
  broken : Bool
  /-- ports on which pieces of its blocks have left (R442, R445) -/
  ports : List Nat
  deriving DecidableEq, Repr

/-- What belongs to a task rather than to its unit (R299). -/
structure Task where
  launch : LaunchId
  role : Nat
  core : CoreId
  group : Option Group
  /-- Creamer requests whose arrivals are not made (R336) -/
  crm : Nat
  /-- reports to place at the next meeting: FLTC, FLTA, FLTI (R294, R301) -/
  reports : List (Word × Word × Word)
  /-- the reports that each HOP of the superstep has placed, and how many HOPs this run of it has passed: a replay places them again (R399) -/
  hops : List (List (Word × Word × Word))
  hop : Nat
  ring : Option Ring
  cmdPos : Nat
  /-- rows (kind 0) and slabs (kind 1) journaled in this superstep (R395) -/
  journal : List (Nat × Nat)
  /-- entries each engine's log holds and has consumed; replay in progress (R392, R398) -/
  replaying : Bool
  /-- while its state is saved (R406): what its engines waited on, and the class of the fault on which it stands stopped -/
  saved : Option (Quad Wait × Option Nat)
  /-- its saved image holds the staged source bank of an XCPY (R406) -/
  staged : Bool
  /-- the task's state as a unit reset found it: a replay starts from its scratchpad, weight store and scale images (R383, R399; log 17) -/
  kept : Option Core
  deriving DecidableEq, Repr

/-- A Creamer request (R336). -/
structure CrmReq where
  task : TaskId
  /-- the order of start of its task's launch: a later launch of the queue is another (R275, R294) -/
  order : Nat
  /-- its sequence number, for the records (R429) -/
  seq : Nat
  part : Nat
  queue : Nat
  promote : Bool
  tier : Nat
  first : Nat
  pages : Nat
  obj : Nat
  ref : Word
  phase : Word
  deriving DecidableEq, Repr

/-- A copy of an object page above its home (R289, R458): the pool page of a tier-0 copy, or the 16 coded units
(byte address, stored bytes) of a tier-1 copy. -/
structure PageCopy where
  part : Nat
  page : Nat
  tier : Nat
  units : List (Nat × Nat)
  deriving DecidableEq, Repr

/-- The promotion in progress (R292): pages of its shadow so far and the pool pages reserved. -/
structure Promotion where
  req : CrmReq
  shadow : List PageCopy
  room : List Nat
  deriving DecidableEq, Repr

/-- A device record that waits for a full queue (R390): root queue or a partition's, and its 256 bytes. -/
structure Rec where
  root : Bool
  part : Nat
  bytes : List Byte
  deriving DecidableEq, Repr

/-- A request over Berast of an engine that awaits its answer (R443): core, engine, the flit, the answer's kind and
payload. -/
structure Ask where
  core : CoreId
  eng : Eng
  /-- the port it was sent on (R442) -/
  port : Option Nat
  flit : Flit
  answer : Option (Nat × List Byte)
  deriving DecidableEq, Repr

/-- A completion arrival at another module's barrier, whose answer is awaited (R134, R443): the flit sent and its port, and the
partition, reference, phase and status that its record names. -/
structure Remote where
  flit : Flit
  port : Option Nat
  part : Nat
  ref : Word
  phase : Word
  status : Nat
  deriving DecidableEq, Repr

/-- What the module has sent at its edges, oldest first (R437, R438, R441, R447, R451). -/
inductive Out where
  /-- a flit, and the port on which it leaves (R442) -/
  | berast (port : Option Nat) (x : Flit)
  | oszin (stack : Nat) (x : OFlit)
  | flash (engine kind : Nat) (tag : BitVec 12) (payload : List Byte)
  /-- completion of a host read: data -/
  | hostData (vf : Nat) (bytes : List Byte)
  /-- Unsupported Request or Completer Abort -/
  | hostError (vf : Nat) (abort : Bool)
  | msix (vf vector : Nat)
  /-- a memory request of the hub to a flash die answered: data, Completer Abort, Successful Completion, Retry -/
  | flashData (bytes : List Byte)
  | flashError
  | flashDone
  | flashRetry
  deriving DecidableEq, Repr

/-- The launch scheduler and its launches (R257 to R281). -/
structure Sched where
  /-- queue q of partition p at 64p + q -/
  queues : List (Nat × Queue)
  launches : List (Nat × Launch)
  tasks : List (Nat × Task)
  /-- the queue that last issued at each priority, plus 1 (R273) -/
  rr : List Nat
  pool : Nat
  starts : Nat
  /-- CCNT at the last issue (R273) -/
  lastIssue : Option Word
  deriving DecidableEq, Repr

/-- A prefetch that reports by arrival (R156): the mode and partition of the core that queued it, its bits, and its arrival pair. -/
structure Prefetch where
  mode : Mode
  part : Nat
  va : Word
  bits : Word
  ref : Word
  phase : Word
  deriving DecidableEq, Repr

/-- The Creamer and the Starter unit (R288 to R302, R325, R358). -/
structure Movers where
  /-- requests in the order queued, and the partition served last (R364) -/
  queue : List CrmReq
  last : Nat
  run : Option Promotion
  copies : List PageCopy
  /-- free Starter nodes in the order they fell unused: tree key 16p + t and node (R358) -/
  freed : List (Nat × Nat)
  /-- prefetches that report by arrival, oldest first (R156) -/
  prefetches : List Prefetch
  deriving DecidableEq, Repr

/-- What the links bring of a reduction window (R132, R446, R447). -/
inductive Brought where
  /-- a partial of another module, which the switch folds -/
  | ofModule
  /-- a partial of a stack engine -/
  | ofEngine
  /-- a piece of the switch's merged result -/
  | merged
  /-- a merged result without a contribution -/
  | nothing
  /-- the switch has given up -/
  | lost
  deriving DecidableEq, Repr

/-- It names the window by partition and byte offset of its first element in DRAM; a result comes in numbered pieces of elements of a type. -/
structure Gathered where
  what : Brought
  part : Nat
  addr : Nat
  ty : Ty
  piece : Nat
  data : List Byte
  deriving DecidableEq, Repr

/-- An access of an instruction that has failed: of the engine that stands at this program counter, at a stack, or at a lower tier, with the
number of the fault class in which it ends (R309, R388, R449). -/
structure Failed where
  core : CoreId
  eng : Eng
  pc : Word
  stack : Option Nat
  cls : Nat
  deriving DecidableEq, Repr

/-- A CTXSV or CTXRS that works on a unit while its image's requests to another module are under way (R23, R420): the firmware core and
engine that execute it, the unit, and what CTXSV has read of it. -/
structure CtxWork where
  core : CoreId
  eng : Eng
  unit : CoreId
  cells : Sparse Byte
  deriving DecidableEq, Repr

/-- Registers and stores at the edges of the module. -/
structure Edge where
  /-- root-mode CSRs 0x200 to 0x26F (R423, R440) -/
  rootCsr : Sparse Word
  /-- control-mode CSRs of control core k at 4096k + n (R422) -/
  ctlCsr : Sparse Word
  /-- wake events kept for a core (R419) -/
  wakes : List CoreId
  rootStopped : Bool
  records : List Rec
  asks : List Ask
  /-- CTXSVs and CTXRSs that wait (R23, R420) -/
  ctx : List CtxWork
  /-- accesses that have failed, each with its instruction (R309, R449) -/
  late : List Failed
  /-- completion arrivals on their way to other modules (R134) -/
  remotes : List Remote
  /-- flits of Churn rings that the link holds back, with their partitions, oldest first: pieces of blocks, and what opens or breaks a ring
  that is not open here (R331, R333, R351) -/
  churn : List (Nat × Flit)
  tag : Nat
  out : List Out
  /-- what the links have brought of reduction windows, oldest first (R446, R447) -/
  partials : List Gathered
  /-- slot table entries (R374, R375): base die s at 64s, channel c at 4096 + 64c, BTEs of die d at 65536 + 16d, port k
  at 69632 + 64k; an unlisted entry is 0x80 -/
  slotTab : Sparse Byte
  /-- halves of tables that await the other: stack, table key, half, 32 entries (R449) -/
  slotHalf : List (Nat × Nat × Nat × List Byte)
  /-- activations of DRAM rows in the running window, and throttled banks (R382) -/
  acts : Sparse Nat
  throttled : List Nat
  /-- units in a watchdog reset (R383, R452) -/
  inReset : List CoreId
  /-- command groups opened by Oszin messages: stack, tag, group (R447) -/
  groups : List (Nat × Nat × Group)
  stacksOff : List Nat
  stacksLost : List Nat
  diesLost : List Nat
  /-- repair entries of stack s: channel, bank, row, subarray, spare (R448) -/
  repair : List (Nat × Nat × Nat × Nat × Nat × Nat)
  /-- identity block bytes of stack s at 64s, and the die registers of R452 at 4096 + 256d + o -/
  ident : Sparse Byte
  /-- MSI-X: masked and pending vectors, 128 vf + vector (R438) -/
  msixMask : List Nat
  msixPend : List Nat
  /-- the other bytes of the MSI-X tables, at 2048 vf + offset (R436, R438) -/
  msixTab : Sparse Byte
  /-- posted host writes that wait, oldest first: function, region, offset, bytes (R437) -/
  posted : List (Nat × HostRegion × Nat × List Byte)
  /-- the boot area of flash die 0 (R451, R453) -/
  boot : Sparse Byte
  /-- the PF status block (R438) -/
  pfStatus : Word
  powered : Bool
  throttle : Bool
  /-- SRAM words in error: core, word of its window, correctable (R405) -/
  sramErr : List (CoreId × Nat × Bool)
  corrected : Sparse Nat
  /-- root measurement register, its log, security version (R385, R386) -/
  meas : List Byte
  log : List (Nat × List Byte)
  version : Nat
  report : List Byte
  deriving DecidableEq, Repr

/-- The module. -/
structure State where
  /-- the core and engine that the present step runs on -/
  cur : CoreId
  eng : Eng
  /-- the engine that has the next turn when the agenda is empty -/
  next : Eng
  /-- turns taken: the argument of the free values (log 2) -/
  turns : Nat
  /-- device events to happen, oldest first, and engines' turns (log 1) -/
  agenda : List (Option Instr × CoreId × Eng)
  ccnt : Word
  /-- CCNT stands at a period boundary whose update is still to come (R270, R271) -/
  due : Bool
  /-- CHB-C4-384, -576 or -768: GiB of DRAM (R1) -/
  dramGiB : Nat
  cores : List (Nat × Core)
  memory : Memory
  parts : List (Nat × Part)
  sched : Sched
  movers : Movers
  edge : Edge
  deriving DecidableEq, Repr

/-- The id of the root core. -/
def rootId : CoreId := 788

/-- The root core as boot leaves it: root mode, entry 0, RMODE 1, VCNT full, SLIPW 256 in every copy (R65, R411; log 4, 10). -/
def Core.rootReset : Core :=
  { Core.zero with
    mode := .root
    owner := some 267264
    csr := [(16, 256#64), (17, 4194320#64), (23, 1#64), (272, 256#64), (273, 4194320#64), (279, 1#64),
            (528, 256#64), (529, 4194320#64), (535, 1#64), (784, 256#64), (785, 4194320#64), (791, 1#64)] }

/-- The launch that stands for the firmware task of control core k (1024 + k) or the root core (1044): it has one role
and belongs to no queue (R411). It has no header, and the spec gives no extent of its text: every word of memory is taken as its text (R34;
DESIGN CHOICE, log 2). The spec gives it no binding table either: BINDQ of its one role, 0, writes an entry of 0 (R86; DESIGN CHOICE, log 11). -/
def Launch.firmware (core : CoreId) : Launch where
  part := 0
  queue := 64
  seq := 0
  hdr := 0
  n := 1
  table := [0]
  bindAt := 0
  text := [(0, 1152921504606846976)]
  group := 0
  arg := 0
  cv := false
  cref := 0
  cphs := 0
  wdg := 0
  order := core
  released := 0
  phase := .running
  arrived := []
  ended := []
  cmds := []
  ran := none
  wins := []
  spanning := []
  pbind := []
  fdem := []
  moving := []
  preempt := .none
  asked := 0
  slots := []
  charged := 0
  doom := none
  ending := none

/-- A task of `launch` with no work outstanding. -/
def Task.start (launch : LaunchId) (role : Nat) (core : CoreId) : Task :=
  ⟨launch, role, core, none, 0, [], [], 0, none, 0, [], false, none, false, none⟩

/-- The control-mode CSRs after reset, of the control cores and the root core's own set: FRQN is 1, all others 0 (R422). -/
def ctlReset : Sparse Word := (List.range 21).map (fun k => (4096 * k + 275, 1#64))

/-- The identity block of a stack of height 8 (R448; log 7): the fields R448 fixes, and of those it leaves to the stack: 1 spare row per
subarray, of 1 to 16, and maker and serial number 0 (DESIGN CHOICE, log 7). -/
def identReset : List Byte :=
  [0, 0, 0, 1, 8, 64, 32, 16, 0, 32, 0, 0, 0, 2, 1, 0, 0, 0, 0, 0, 8, 0, 0, 0]

/-- The edge registers after boot (R374, R375, R422, R423, R438, R440, R448, R452, R453). -/
def Edge.reset : Edge where
  rootCsr := [(593, 1#64)]
  ctlCsr := ctlReset
  wakes := []
  rootStopped := false
  records := []
  asks := []
  ctx := []
  late := []
  remotes := []
  churn := []
  tag := 0
  out := []
  partials := []
  slotTab := []
  slotHalf := []
  acts := []
  throttled := []
  inReset := []
  groups := []
  stacksOff := []
  stacksLost := []
  diesLost := []
  repair := []
  ident := ((List.range 12).flatMap fun s => (identReset.zipIdx.map fun (b, o) => (64 * s + o, b)).filter
      fun x => x.2 != 0) ++
    (List.range 4).flatMap fun d => (if d = 0 then [] else [(4096 + 256 * d, BitVec.ofNat 8 d)]) ++
      [(4096 + 256 * d + 64, 3#8)]
  msixMask := []
  msixPend := []
  msixTab := []
  posted := []
  boot := []
  pfStatus := 81#64
  powered := true
  throttle := false
  sramErr := []
  corrected := []
  meas := []
  log := []
  version := 0
  report := []

/-- The module right after reset: booted (R453), the root core about to run root firmware, every partition disabled,
memory all zero. -/
def State.reset : State where
  cur := rootId
  eng := .f
  next := .f
  turns := 0
  agenda := []
  ccnt := 0
  due := false
  dramGiB := 384
  cores := [(rootId, Core.rootReset)]
  memory := ⟨[], [], [], [], [], [], [], [], [], [], [], [], []⟩
  parts := []
  sched :=
    { queues := [], launches := [(1044, Launch.firmware rootId)], tasks := [(267264, Task.start 1044 0 rootId)],
      rr := [0, 0, 0, 0], pool := 0, starts := 0, lastIssue := none }
  movers := ⟨[], 15, none, [], [], []⟩
  edge := Edge.reset

end Sys2Proof.Machine
end

