-- ==== Sys2Proof/Machine/Phys.lean ====
section
/-! DEFINITION. Physical memory: the map of R20, DRAM rows (R138), clear-pending rows and blocks (R379, R380), the sector
code (R401, R402), L2 lines, and reads and writes of bytes at their home slices. -/

namespace Sys2Proof.Machine

/-- The regions of the physical map (R20). -/
inductive Region where
  | dram | window | barrier | starter | flash | remote | none
  deriving DecidableEq, Repr

/-- Installed DRAM in bytes (R1). -/
def State.dramBytes (s : State) : Nat := s.dramGiB * 2 ^ 30

def flashBase : Nat := 4398046511104
def barrierBase : Nat := 1374389534720
def starterBase : Nat := 1378684502016
def remoteBase : Nat := 2251799813685248

/-- The unit whose window holds a byte address, and the offset in it (R20, R21). -/
def windowOf (p : Nat) : Option (CoreId × Nat) :=
  if 1099511627776 ≤ p ∧ p < 1099511627776 + 256 * 33554432 then
    some ((p - 1099511627776) / 33554432, p % 33554432)
  else if 1236950581248 ≤ p ∧ p < 1236950581248 + 192 * 33554432 then
    some (256 + (p - 1236950581248) / 33554432, p % 33554432)
  else if 1305670057984 ≤ p ∧ p < 1305670057984 + 16 * 33554432 then
    some (512 + (p - 1305670057984) / 33554432, p % 33554432)
  else none

/-- The region of a physical byte address (R20). -/
def State.region (s : State) (p : Nat) : Region :=
  if p < s.dramBytes then .dram
  else if (windowOf p).isSome then .window
  else if barrierBase ≤ p ∧ p < barrierBase + 4294967296 then .barrier
  else if starterBase ≤ p ∧ p < starterBase + 4294967296 then .starter
  else if flashBase ≤ p ∧ p < flashBase + 17592186044416 then .flash
  else if remoteBase ≤ p ∧ p < 2 * remoteBase then .remote
  else .none

/-- The slice of a DRAM byte address (R138). -/
def sliceOf (p : Nat) : Nat := p / 262144 % 192

/-- The slice-local line of a DRAM byte address (R138). -/
def localLine (p : Nat) : Nat := (p / 262144 / 192 * 262144 + p % 262144) / 128

/-- A row key: slice, channel, bank and row, the row in the low 16 bits. -/
def rowKey (slice channel bank row : Nat) : Nat := ((slice * 4 + channel) * 32 + bank) * 65536 + row

/-- The row that holds a DRAM byte address (R138). -/
def rowOf (p : Nat) : Nat := let l := localLine p; rowKey (sliceOf p) (l % 4) (l / 64 % 32) (l / 2048)

def rowSlice (key : Nat) : Nat := key / 65536 / 128
def rowChannel (key : Nat) : Nat := key / 65536 / 32 % 4
def rowBank (key : Nat) : Nat := key / 65536 % 32
def rowNum (key : Nat) : Nat := key % 65536

/-- The byte address of a slice-local line (R138). -/
def lineAddr (slice line : Nat) : Nat :=
  let q := line * 128
  (q / 262144 * 192 + slice) * 262144 + q % 262144

/-- The byte addresses of the sixteen lines of a row, by column (R138). -/
def rowLines (key : Nat) : List Nat :=
  (List.range 16).map fun c => lineAddr (rowSlice key) (rowNum key * 2048 + rowBank key * 64 + c * 4 + rowChannel key)

/-- Whether a number lies in one of the intervals. -/
def inIntervals (xs : List (Nat × Nat)) (k : Nat) : Bool := xs.any fun x => decide (x.1 ≤ k) && decide (k < x.2)

/-- Removes one number from a list of intervals. -/
def dropFrom (xs : List (Nat × Nat)) (k : Nat) : List (Nat × Nat) :=
  xs.flatMap fun x =>
    if x.1 ≤ k ∧ k < x.2 then
      (if x.1 < k then [(x.1, k)] else []) ++ (if k + 1 < x.2 then [(k + 1, x.2)] else [])
    else [x]

/-- Whether a byte lies in a clear-pending row or block and so reads 0 (R379, R380). -/
def State.pendingAt (s : State) (p : Nat) : Bool :=
  (decide (p < s.dramBytes) && inIntervals s.memory.clrRows (rowOf p)) ||
    (decide (flashBase ≤ p) && inIntervals s.memory.clrBlocks ((p - flashBase) / 1048576))

/-- Product in GF(2^8) with x^8 + x^4 + x^3 + x^2 + 1 (R401). -/
def gfMul (a b : Nat) : Nat :=
  (List.range 7).foldl (fun p i => let k := 14 - i; if p.testBit k then p ^^^ (285 <<< (k - 8)) else p) (clmulNat 8 a b)

/-- α^k (R401). -/
def gfPow (k : Nat) : Nat := (List.range k).foldl (fun p _ => gfMul p 2) 1

/-- The value of a polynomial, highest coefficient first, at x (R401). -/
def gfEval (x : Nat) (cs : List Nat) : Nat := cs.foldl (fun a c => gfMul a x ^^^ c) 0

/-- Message bytes of a sector: its five address bytes and its data, lowest coefficient first (R401). -/
def codeMessage (sector : Nat) (data : List Byte) : List Nat :=
  (bytesOfNat 5 sector).map BitVec.toNat ++ data.map BitVec.toNat

/-- Remainder of the message times x^4 by g(x), lowest coefficient first (R401). -/
def codeCheck (sector : Nat) (data : List Byte) : List Nat :=
  let g := [1, 2, 4, 8].foldl (fun g r => (List.zipWith (· ^^^ ·) (g ++ [0]) (0 :: g.map (gfMul r)))) [1]
  ((codeMessage sector data).reverse.foldl (fun rem m =>
    let f := rem.headD 0 ^^^ m
    List.zipWith (· ^^^ ·) (rem.drop 1 ++ [0]) ((g.drop 1).map (gfMul f))) [0, 0, 0, 0]).reverse

/-- What a read of a sector yields (R402). -/
inductive SectorRead where
  | clean | corrected (data : List Byte) | bad
  deriving DecidableEq, Repr

/-- The outcome of checking stored data and check bytes at a sector (R402). -/
def checkSector (sector : Nat) (data : List Byte) (check : List Nat) : SectorRead :=
  let word := check ++ codeMessage sector data
  let syn := [1, 2, 4, 8].map fun x => gfEval x word.reverse
  if syn.all (· == 0) then .clean
  else
    let e := syn.headD 0
    let hit := fun j => (List.range 4).all fun i => syn.getD i 0 == gfMul e (gfPow (i * j))
    if e = 0 then .bad
    else if (List.range 4).any hit then .corrected data
    else match (List.range 16).find? fun k => hit (k + 9) with
      | some k => .corrected (data.set k (data.getD k 0 ^^^ BitVec.ofNat 8 e))
      | none => .bad

/-- The window base of a unit (R20). -/
def windowBase (k : CoreId) : Nat :=
  (if k < 256 then 1099511627776 else if k < 512 then 1236950581248 else 1305670057984) + k % 256 * 33554432

/-- The weight-store rows of a stack engine lie in DRAM and carry the sector code over their window addresses (R15): where a
sector of a window is one, its unit, whether it holds a scale image, and its offset in the store. A scale image has no place in the
window; its code takes the offset that R406 gives it in a saved image (log 13). -/
def codedSlab (n : Nat) : Option (CoreId × Bool × Nat) :=
  match windowOf (16 * n) with
  | some (k, o) =>
    if k < 256 ∨ 448 ≤ k then none
    else if 4194304 ≤ o ∧ o < 16777216 then some (k, false, o - 4194304)
    else if 17825792 ≤ o ∧ o < 18874368 then some (k, true, o - 17825792)
    else none
  | none => none

/-- The stored bytes of a sector: of memory, or of the weight store of a stack engine (R15, R401). -/
def State.sectorBytes (s : State) (n : Nat) : List Byte :=
  match codedSlab n with
  | some (k, scale, o) =>
    let c := (assoc s.cores k).getD Core.zero
    if scale then c.scl.slice 0 o 16 else c.wst.slice 0 o 16
  | none => s.memory.bytes.slice 0 (16 * n) 16

/-- The outcome of reading sector number `n` as stored (R402). A sector with no check bytes of its own is clean. -/
def State.sectorRead (s : State) (n : Nat) : SectorRead :=
  match s.memory.check.get 0 n with
  | 0 => .clean
  | c => checkSector n (s.sectorBytes n) (unpack 8 4 c)

/-- One byte of memory as every reader sees it, outside shadow regions and port pages: 0 where clearing is pending, corrected where the
sector code corrects (R379, R402). Unit windows are no memory. -/
def State.byteAt (s : State) (p : Nat) : Byte :=
  if s.pendingAt p then 0
  else if (codedSlab (p / 16)).isSome then s.memory.bytes.get 0 p
  else match s.sectorRead (p / 16) with
    | .corrected data => data.getD (p % 16) 0
    | _ => s.memory.bytes.get 0 p

/-- The sectors that bytes p to p + n - 1 touch. -/
def sectorsOf (p n : Nat) : List Nat := if n = 0 then [] else (List.range ((p + n - 1) / 16 - p / 16 + 1)).map (· + p / 16)

def State.queue (s : State) (i : Nat) : Queue := (assoc s.sched.queues i).getD Queue.zero

/-- The partition whose port page holds a byte address, and the offset (R257). A PORT register of 0 names no page. -/
def State.portPage (s : State) (a : Nat) : Option (Nat × Nat) :=
  ((List.range 16).find? fun p => let base := (s.edge.rootCsr.get 0 (544 + p)).toNat
    base ≠ 0 && decide (base ≤ a) && decide (a < base + 65536)).map fun p => (p, a - (s.edge.rootCsr.get 0 (544 + p)).toNat)

/-- Bytes p to p + n - 1 touch a port page. -/
def State.portOver (s : State) (p n : Nat) : Bool :=
  (List.range 16).any fun k => let base := (s.edge.rootCsr.get 0 (544 + k)).toNat
    base ≠ 0 && decide (base < p + n) && decide (p < base + 65536)

/-- A byte of a port page as read: the status of a queue, or 0 (R257, R264). -/
def State.portByte (s : State) (p o : Nat) : Byte :=
  if 4096 ≤ o ∧ o < 5120 then
    let q := s.queue (64 * p + (o - 4096) / 16)
    (bytesOfNat 16 (q.acc % 2 ^ 48 + (q.fin % 2 ^ 48 + q.ref % 65536 * 2 ^ 48) * 2 ^ 64)).getD (o % 16) 0
  else 0

/-- One byte as its home slice serves it: of a port page, its status or 0, else of memory (R257). -/
def State.servedByte (s : State) (p : Nat) : Byte :=
  match s.portPage p with
  | some (q, o) => s.portByte q o
  | none => s.byteAt p

/-- Bytes p to p + n - 1 as every reader sees them. -/
def State.bytesAt (s : State) (p n : Nat) : List Byte :=
  if s.portOver p n then (List.range n).map fun i => s.servedByte (p + i)
  else if s.memory.clrRows.isEmpty && s.memory.clrBlocks.isEmpty && s.memory.check.isEmpty then s.memory.bytes.slice 0 p n
  else (List.range n).map fun i => s.byteAt (p + i)

/-- The 4 KiB units of the flash tier that bytes p to p + n - 1 touch (R450). -/
def unitsOf (p n : Nat) : List Nat :=
  if n = 0 || decide (p < flashBase) then []
  else (List.range ((p + n - 1 - flashBase) / 4096 - (p - flashBase) / 4096 + 1)).map (· + (p - flashBase) / 4096)

/-- A unit of the flash tier among those touched fails (R450); a block whose clearing is pending holds zeros. -/
def State.badUnit (s : State) (p n : Nat) : Bool :=
  !s.memory.badUnits.isEmpty && (unitsOf p n).any fun u => s.memory.badUnits.contains u && !s.pendingAt (flashBase + 4096 * u)

/-- Whether a sector among those touched is uncorrectable (R402), or lies in a flash unit that fails (R450); a pending row holds
zeros and is clean, and a port page holds no data (R257). -/
def State.badSector (s : State) (p n : Nat) : Bool :=
  (!s.memory.check.isEmpty && (sectorsOf p n).any fun k => !s.pendingAt (16 * k) && (s.portPage (16 * k)).isNone && s.sectorRead k == .bad) ||
    s.badUnit p n

/-- Bytes p to p + n - 1 cover what they touch of the units that the code protects: whole sectors, in the flash tier whole 4 KiB units
(R404, R450). -/
def coversUnits (p n : Nat) : Bool := if p < flashBase then p % 16 == 0 && n % 16 == 0 else (p - flashBase) % 4096 == 0 && n % 4096 == 0

/-- Memory is in its one canonical form: rising addresses, and no byte listed that reads as an unlisted one does. -/
def Memory.wf (m : Memory) : Bool := Sparse.wf 0 m.bytes

def State.setMemory (s : State) (m : Memory) : State := { s with memory := m }

/-- Clears a whole DRAM row and its pending bit (R379). -/
def State.clearRow (s : State) (key : Nat) : State :=
  let m := s.memory
  let bytes := (rowLines key).foldl (fun b p => Sparse.splice 0 b p (List.replicate 128 0)) m.bytes
  let check := (rowLines key).foldl (fun c p => Sparse.splice 0 c (p / 16) (List.replicate 8 0)) m.check
  s.setMemory { m with bytes := bytes, check := check, clrRows := dropFrom m.clrRows key }

/-- Clears every pending row that a read of bytes p to p + n - 1 touches (R379). -/
def State.clearRows (s : State) (p n : Nat) : State :=
  if s.memory.clrRows.isEmpty then s
  else (sectorsOf p n).foldl (fun s k =>
    if decide (16 * k < s.dramBytes) && inIntervals s.memory.clrRows (rowOf (16 * k)) then s.clearRow (rowOf (16 * k)) else s) s

/-- Erases a flash block and clears its pending bit (R380). -/
def State.clearBlock (s : State) (b : Nat) : State :=
  let m := s.memory
  let lo := flashBase + b * 1048576
  s.setMemory { m with
    bytes := (m.bytes.filter fun x => x.1 < lo || lo + 1048576 ≤ x.1)
    check := (m.check.filter fun x => 16 * x.1 < lo || lo + 1048576 ≤ 16 * x.1)
    badUnits := m.badUnits.filter fun u => u / 256 != b
    clrBlocks := dropFrom m.clrBlocks b }

/-- Clears every pending row and block that a write of bytes p to p + n - 1 touches (R379, R380). -/
def State.settle (s : State) (p n : Nat) : State :=
  if s.memory.clrRows.isEmpty && s.memory.clrBlocks.isEmpty then s
  else (sectorsOf p n).foldl (fun s k =>
    if !s.pendingAt (16 * k) then s
    else if 16 * k < s.dramBytes then s.clearRow (rowOf (16 * k))
    else s.clearBlock ((16 * k - flashBase) / 1048576)) s

/-- The stack or flash die that holds a byte address is lost (R449, R450). -/
def State.lostAt (s : State) (a : Nat) : Bool :=
  if a < s.dramBytes then s.edge.stacksLost.contains (sliceOf a / 16)
  else decide (flashBase ≤ a) && s.edge.diesLost.contains ((a - flashBase) / 1048576 % 4)

/-- Marks lines as resident in L2 (R156). -/
def Memory.touch (m : Memory) (p n : Nat) : Memory :=
  if n = 0 then m
  else { m with lines := ((List.range ((p + n - 1) / 128 - p / 128 + 1)).map (· + p / 128)).foldl insertNat m.lines }

/-- Puts data into a sector, with its own code (R15, R402). -/
def State.fixSector (s : State) (k : Nat) (data : List Byte) : State :=
  let m := { s.memory with check := s.memory.check.put 0 k 0 }
  match codedSlab k with
  | some (u, scale, o) =>
    let c := (assoc s.cores u).getD Core.zero
    { s with
      memory := m
      cores := assocPut s.cores u (if scale then { c with scl := c.scl.splice 0 o data } else { c with wst := c.wst.splice 0 o data }) }
  | none => { s with memory := { m with bytes := m.bytes.splice 0 (16 * k) data } }

/-- Rewrites those of these sectors that the code corrects, and counts them for the partition (R402, R405). -/
def State.scrubSectors (s : State) (part : Nat) (ks : List Nat) : State :=
  if s.memory.check.isEmpty then s
  else ks.foldl (fun s k =>
    match s.sectorRead k with
    | .corrected data =>
      let s := s.fixSector k data
      { s with edge := { s.edge with corrected := s.edge.corrected.put 0 part (s.edge.corrected.get 0 part + 1) } }
    | _ => s) s

/-- Rewrites the sectors of a range that the code corrects. -/
def State.scrub (s : State) (part p n : Nat) : State := if s.memory.check.isEmpty then s else s.scrubSectors part (sectorsOf p n)

/-- The partition that owns a byte address, or whose barrier or Starter region it lies in (R20, R361); 16, which has no count, where there is
none. -/
def State.ownerOf (s : State) (a : Nat) : Nat :=
  if barrierBase ≤ a ∧ a < barrierBase + 4294967296 then (a - barrierBase) / 268435456
  else if starterBase ≤ a ∧ a < starterBase + 4294967296 then (a - starterBase) / 268435456
  else ((s.parts.find? fun x => x.2.enabled &&
    if a < s.dramBytes then x.2.slc.testBit (sliceOf a / 4)
    else decide (flashBase + x.2.fnb ≤ a) && decide (a < flashBase + x.2.fnb + x.2.fnl)).map (·.1)).getD 16

/-- What the device has read is cleared where clearing was pending, and put right where the code corrects it (R379, R402). -/
def State.took (s : State) (part p n : Nat) : State := (s.clearRows p n).scrub part p n

/-- The device has read bytes p to p + n - 1 for itself: as `took`, counted for the partition that owns them. -/
def State.tookOwn (s : State) (p n : Nat) : State := s.took (s.ownerOf p) p n

/-- The launches whose text holds the word at byte address 4w (R34). -/
def State.readers (s : State) (w : Nat) : List LaunchId :=
  (s.sched.launches.filter fun x => x.2.text.any fun g => decide (g.1 ≤ 4 * w) && decide (4 * w < g.1 + g.2)).map (·.1)

/-- The words, from word w on, in which two runs of bytes differ: address and former value. -/
def changedWords : Nat → List Byte → List Byte → List (Nat × Nat)
  | w, a :: b :: c :: d :: old, e :: f :: g :: h :: new =>
    if a = e ∧ b = f ∧ c = g ∧ d = h then changedWords (w + 1) old new
    else (w, natOfBytes [a, b, c, d]) :: changedWords (w + 1) old new
  | _, _, _ => []

/-- The words that a write of bytes xs at p changes: address and former value. -/
def State.replaced (s : State) (p : Nat) (xs : List Byte) : List (Nat × Nat) :=
  let k := p % 4
  let old := s.bytesAt (p - k) ((k + xs.length + 3) / 4 * 4)
  changedWords (p / 4) old (old.take k ++ xs ++ old.drop (k + xs.length))

/-- The former words of running tasks' text, with these words that a write replaces: an engine may fetch them still (R34). A word that is written
more than once keeps each value it has had since its task began, and a fetch takes any of them (DESIGN CHOICE, log 2). -/
def State.keepText (s : State) (ws : List (Nat × Nat)) : Sparse (List (LaunchId × Nat)) :=
  let now := (ws.map fun x => (x.1, (s.readers x.1).map fun l => (l, x.2))).filter fun x => !x.2.isEmpty
  Sparse.merge (fun a b => a ++ b.filter fun y => !a.contains y) (s.memory.oldText.length + now.length) s.memory.oldText now

/-- What a write of bytes xs at p puts into sector k: where it begins, and the bytes. -/
def pieceIn (p : Nat) (xs : List Byte) (k : Nat) : Nat × List Byte :=
  let lo := max p (16 * k)
  (lo, (xs.drop (lo - p)).take (16 * k + 16 - lo))

/-- A write by the device changes nothing in sector k: a home slice stores no data in a port page (R257), and a merge that leaves part of an
uncorrectable sector as it is cannot read it (R404). -/
def State.refusesPart (s : State) (p : Nat) (xs : List Byte) (k : Nat) : Bool :=
  (s.portPage (16 * k)).isSome || ((pieceIn p xs k).2.length != 16 && !s.memory.check.isEmpty && !s.pendingAt (16 * k) && s.sectorRead k == .bad)

/-- Writes bytes at a physical address: pending rows are cleared first, a sector that is written in part is read for the merge, lines and
sectors become resident and dirty, and the sectors carry their own code again (R116, R379, R401, R402). -/
def State.writeBytes (s : State) (p : Nat) (xs : List Byte) : State :=
  let old := s.keepText (s.replaced p xs)
  let s := s.settle p xs.length
  let s := s.scrubSectors (s.ownerOf p) ((sectorsOf p xs.length).filter fun k => (pieceIn p xs k).2.length != 16)
  let m := s.memory
  let all := sectorsOf p xs.length
  let ks := if m.check.isEmpty && !s.portOver p xs.length then all else all.filter fun k => !s.refusesPart p xs k
  s.setMemory { (m.touch p xs.length) with
    oldText := old
    badUnits := if m.badUnits.isEmpty then [] else
      m.badUnits.filter fun u => !(decide (p ≤ flashBase + 4096 * u) && decide (flashBase + 4096 * u + 4096 ≤ p + xs.length))
    bytes := if ks.length = all.length then m.bytes.splice 0 p xs
      else ks.foldl (fun b k => let x := pieceIn p xs k; b.splice 0 x.1 x.2) m.bytes
    check := if m.check.isEmpty then [] else ks.foldl (fun c k => c.put 0 k 0) m.check
    dirty := ks.foldl insertNat m.dirty }

/-- A little-endian number of n bytes at a physical address. -/
def State.numAt (s : State) (p n : Nat) : Nat := natOfBytes (s.bytesAt p n)

/-- Writes a little-endian number of n bytes. -/
def State.writeNum (s : State) (p n x : Nat) : State := s.writeBytes p (bytesOfNat n x)

end Sys2Proof.Machine
end

