-- ==== Sys2Proof/Machine/Ops.lean ====
section
/-! DEFINITION. Named operations on cores, registers, tokens and records; issue and retirement of an instruction; taking an
exception and returning from one (R22, R58 to R62, R98, R99, R389, R414, R415, R428 to R430). -/

namespace Sys2Proof.Machine

/-- Why an instruction does not complete at this turn: a fault, or a wait, with the state that waits. -/
inductive Stop where
  | trap (t : Trap)
  | wait (s : State)
  deriving DecidableEq, Repr

abbrev Out1 := Host.Outcome State Fault Refusal

/-- The fault classes (R388). -/
inductive Cls where
  | illegal | privilege | deadlock | meeting | trap | csrValue | role | alignment | layout | window | localRange
  | barrierRef | barrierValue | addrGen | translation | permission | access | bounds | shadow | shadowCap | group
  | redSlot | commQueue | barrierPhase | groupAbort | operandFormat | lowerTier | append | watchdog | unitReset
  | residency | crmQueue | placement | starter | reference | blockList | blockPlace | churn | churnBreak | branchTarget
  | sectorCode | storage | divergence | syscall
  deriving DecidableEq, Repr

/-- The code of a class (R388): 1 to 44 in the order of the table. -/
def Cls.code (c : Cls) : Nat := c.ctorIdx + 1

/-- A fault of class c with operand OPA. -/
def mkTrap (c : Cls) (a : Word := 0) (b : Word := 0) (o : Word := 0) : Trap := ⟨c.code, 0, a, b, o⟩

/-- A failed check of an instruction. -/
def fail {α : Type} (c : Cls) (a : Word := 0) (b : Word := 0) (o : Word := 0) : Except Stop α := .error (.trap (mkTrap c a b o))

/-- Passes when the condition holds, and faults otherwise. -/
def need (ok : Bool) (c : Cls) (a : Word := 0) (b : Word := 0) (o : Word := 0) : Except Stop Unit := if ok then .ok () else fail c a b o

/-! ### Cores and registers -/

def State.core (s : State) (k : CoreId) : Core := (assoc s.cores k).getD Core.zero
def State.setCore (s : State) (k : CoreId) (c : Core) : State := { s with cores := assocPut s.cores k c }
/-- The core the step runs on. -/
def State.me (s : State) : Core := s.core s.cur
def State.setMe (s : State) (c : Core) : State := s.setCore s.cur c

/-- s_r in the copy of engine e; s0 reads zero (R14, R58). -/
def Core.getS (c : Core) (e : Eng) (r : Nat) : Word := if r = 0 then 0 else c.scal.get 0 (32 * e.num + r)
/-- Writes s_r in one copy; a write to s0 is discarded (R58). -/
def Core.setS (c : Core) (e : Eng) (r : Nat) (v : Word) : Core :=
  if r = 0 then c else { c with scal := c.scal.put 0 (32 * e.num + r) v }

/-- s_r of the copy of the engine whose turn it is. -/
def State.rd (s : State) (r : Reg) : Word := s.me.getS s.eng r.val
/-- Writes s_r of that copy. -/
def State.wr (s : State) (r : Reg) (v : Word) : State := s.setMe (s.me.setS s.eng r.val v)

/-- CSR n of engine e's copy as stored. -/
def Core.getC (c : Core) (e : Eng) (n : Nat) : Word := c.csr.get 0 (256 * e.num + n)
def Core.setC (c : Core) (e : Eng) (n : Nat) (v : Word) : Core := { c with csr := c.csr.put 0 (256 * e.num + n) v }
/-- Writes a CSR in all four copies. -/
def Core.setCAll (c : Core) (n : Nat) (v : Word) : Core := Eng.all.foldl (fun c e => c.setC e n v) c

/-- A free choice among n outcomes; `key` tells choices of one step apart (log 2). -/
def State.choose (s : State) (key n : Nat) : Nat := Config.freeChoice (Nat.pair s.turns key) % n

def State.task (s : State) (t : TaskId) : Option Task := assoc s.sched.tasks t
def State.setTask (s : State) (t : TaskId) (x : Task) : State :=
  { s with sched := { s.sched with tasks := assocPut s.sched.tasks t x } }
def State.launch (s : State) (l : LaunchId) : Option Launch := assoc s.sched.launches l
def State.setLaunch (s : State) (l : LaunchId) (x : Launch) : State :=
  { s with sched := { s.sched with launches := assocPut s.sched.launches l x } }
def State.setQueue (s : State) (i : Nat) (q : Queue) : State :=
  { s with sched := { s.sched with queues := assocPut s.sched.queues i q } }
def State.part (s : State) (p : Nat) : Part := (assoc s.parts p).getD Part.zero
def State.setPart (s : State) (p : Nat) (x : Part) : State := { s with parts := assocPut s.parts p x }
def State.setEdge (s : State) (x : Edge) : State := { s with edge := x }
def State.setMovers (s : State) (x : Movers) : State := { s with movers := x }

/-- The task bound to core k, and its launch. -/
def State.taskOf (s : State) (k : CoreId) : Option (TaskId × Task × Launch) :=
  match (s.core k).owner with
  | none => none
  | some t =>
    match s.task t with
    | none => none
    | some x =>
      match s.launch x.launch with
      | none => none
      | some l => some (t, x, l)

/-- Changes the task of the running core, if there is one. -/
def State.modTask (s : State) (f : Task → Task) : State :=
  match s.taskOf s.cur with
  | some (t, x, _) => s.setTask t (f x)
  | none => s

/-- The partition of a number. -/
def PartId.ofNat (n : Nat) : PartId := Fin.ofNat 16 n

/-- Adds an event to happen next. -/
def State.push (s : State) (i : Instr) : State := { s with agenda := s.agenda ++ [(some i, s.cur, s.eng)] }

/-- Adds an event unless it is to happen already. -/
def State.pushOnce (s : State) (i : Instr) : State := if s.agenda.any fun x => x.1 == some i then s else s.push i

/-! ### Root- and control-mode CSRs (R422, R423) -/

def State.rootCsr (s : State) (n : Nat) : Word := s.edge.rootCsr.get 0 n
def State.setRootCsr (s : State) (n : Nat) (v : Word) : State :=
  s.setEdge { s.edge with rootCsr := s.edge.rootCsr.put 0 n v }
/-- CSR n of control core k. -/
def State.ctl (s : State) (k n : Nat) : Word := s.edge.ctlCsr.get 0 (4096 * k + n)
def State.setCtl (s : State) (k n : Nat) (v : Word) : State :=
  s.setEdge { s.edge with ctlCsr := s.edge.ctlCsr.put 0 (4096 * k + n) v }

/-- The control core that CTLC assigns to partition p (R422, R423). -/
def State.ctlOf (s : State) (p : Nat) : Option Nat :=
  let v := s.rootCsr (560 + p)
  if v.getLsbD 8 then some (wField v 0 5) else none

/-- A control-mode CSR of the core that serves partition p; 0 where none does. -/
def State.partCsr (s : State) (p n : Nat) : Word :=
  match s.ctlOf p with
  | some k => s.ctl k n
  | none => 0

/-! ### Tokens and scalar updates (R60, R61, R98, R99) -/

/-- The FIFO out of which e pops with wb (`after` false) or wa (R22). -/
def inFifo (e : Eng) (after : Bool) : Nat := 2 * e.num + (if after then 1 else 0)
/-- The FIFO into which e pushes with sb (`after` false) or sa. -/
def outFifo (e : Eng) (after : Bool) : Nat := if after then 2 * e.after.num else 2 * e.before.num + 1

/-- The FIFOs an instruction of e pops from. -/
def popsOf (e : Eng) (t : Toks) : List Nat :=
  (if t.wb then [inFifo e false] else []) ++ (if t.wa then [inFifo e true] else [])
/-- The FIFOs an instruction of e pushes into. -/
def pushesOf (e : Eng) (t : Toks) : List Nat :=
  (if t.sb then [outFifo e false] else []) ++ (if t.sa then [outFifo e true] else [])

def maskOf (ks : List Nat) : Nat := ks.foldl (fun m k => m ||| 2 ^ k) 0
def ofMask (m : Nat) : List Nat := (List.range 8).filter fun k => m.testBit k

def Core.tokens (c : Core) (k : Nat) : List Token := c.fifo.get [] k

/-- Places of FIFO k that are taken: its tokens, and those popped for an instruction that has not retired, to whose places they may go back
(R98, R99). The spec does not say whether such a kept place makes the FIFO full for a push: here it does (DESIGN CHOICE, log 13). -/
def Core.taken (c : Core) (k : Nat) : Nat :=
  (c.tokens k).length + (Eng.all.map fun e => ((c.popped.get e).filter fun x => x.1 == k).length).sum

/-- TOKS (R65). -/
def Core.toks (c : Core) : Word := wOf (pack 4 ((List.range 8).map fun k => (c.tokens k).length))

/-- The largest counts of two tokens. -/
def joinTokens (a b : Token) : Token := ⟨max a.f b.f, max a.m b.m, max a.v b.v, max a.w b.w⟩

/-- Updates of register r that `e` has not received and that the counts `t` bring, by maker: the last value of each maker
that has one (R61). -/
def Core.news (c : Core) (e : Eng) (t : Token) (r : Nat) : List (Eng × Word) :=
  Eng.all.filterMap fun m =>
    if m = e then none
    else ((c.upds.filter fun u => u.maker = m && u.reg = r && decide ((c.known.get e).get m ≤ u.num) && decide (u.num < t.get m)).getLast?).map
      fun u => (m, u.val)

/-- Forgets the updates that every copy has received. -/
def Core.prune (c : Core) : Core :=
  { c with upds := c.upds.filter fun u => Eng.all.any fun e => e != u.maker && decide ((c.known.get e).get u.maker ≤ u.num) }

/-- The copy of e receives the updates that the counts `t` bring; `pick` chooses between makers of one register (R61). -/
def Core.deliver (pick : Nat → Nat → Nat) (c : Core) (e : Eng) (t : Token) : Core :=
  let c' := if c.upds.isEmpty then c else
    (List.range 32).foldl (fun c' r =>
      let ms := c.news e t r
      if ms.isEmpty then c' else c'.setS e r ((ms.getD (pick r ms.length) (e, 0)).2)) c
  { c' with known := c.known.set e (joinTokens (c.known.get e) t) }.prune

/-- At a meeting every copy receives what it lacks, the highest-numbered maker last (R62). -/
def Core.deliverAll (c : Core) : Core :=
  Eng.all.foldl (fun c e => c.deliver (fun _ n => n - 1) e c.made) c

/-- A scalar result of an F, M, V or W instruction: engine e's copy is written and the update set on its way (R60). -/
def Core.update (c : Core) (e : Eng) (r : Nat) (v : Word) : Core :=
  if r = 0 then c
  else
    let n := c.made.get e
    { c.setS e r v with
      upds := c.upds ++ [⟨e, n, r, v⟩]
      made := c.made.set e (n + 1)
      known := c.known.set e ((c.known.get e).set e (n + 1)) }

def State.result (s : State) (r : Reg) (v : Word) : State := s.setMe (s.me.update s.eng r.val v)

/-- Pops one token from each FIFO of the list, when all hold one (R99). -/
def State.takeTokens (s : State) (k : CoreId) (e : Eng) (fifos : List Nat) : Option State :=
  let c := s.core k
  if fifos.isEmpty || !(c.popped.get e).isEmpty then some s
  else if fifos.any fun q => (c.tokens q).isEmpty then none
  else
    let got := fifos.map fun q => (q, (c.tokens q).headD (.const 0))
    some (s.setCore k { c with
      fifo := got.foldl (fun (f : Sparse (List Token)) (x : Nat × Token) => f.put [] x.1 ((c.tokens x.1).drop 1)) c.fifo
      popped := c.popped.set e got
      popAt := c.popAt.set e s.turns
      wait := c.wait.set e .run })

/-- The copy of e receives what its popped tokens bring, before the instruction issues (R60, R61, R99). A choice between two
makers is that of the turn of the pop. -/
def Core.hear (c : Core) (e : Eng) : Core :=
  let got := c.popped.get e
  if got.isEmpty then c
  else c.deliver (fun r n => Config.freeChoice (Nat.pair (c.popAt.get e) (64 + 32 * e.num + r)) % n) e
    (got.foldl (fun t x => joinTokens t x.2) (.const 0))

/-- An instruction that waits has not issued: its core's copies are again those of `c` (R60, R99). -/
def Core.unhear (d c : Core) : Core := { d with scal := c.scal, upds := c.upds, known := c.known }

/-- Makes what pushes have room and leaves the engine waiting on the others (R99). -/
def Core.pushTokens (c : Core) (e : Eng) (fifos : List Nat) : Core :=
  let t := c.known.get e
  let (c, left) := fifos.foldl (fun (c, left) q =>
    if c.taken q < 8 then ({ c with fifo := c.fifo.put [] q (c.tokens q ++ [t]) }, left) else (c, left ++ [q])) (c, [])
  { c with wait := c.wait.set e (if left.isEmpty then .run else .push (maskOf left)) }

/-- Engine e has retired an instruction of n words: its pc and pass count move on (R31). -/
def Core.pass! (c : Core) (e : Eng) (n : Nat) : Core :=
  { c with pc := c.pc.set e (c.pc.get e + wOf (32 * n)), pass := c.pass.set e (c.pass.get e + wOf n) }

/-- Retirement of an X instruction of n words in the engine whose turn it is. -/
def State.passX (s : State) (n : Nat) : State := s.setMe (s.me.pass! s.eng n)

/-- Writes a scalar and retires an X instruction of n words. -/
def State.finishX (s : State) (n : Nat) (d : Reg) (v : Word) : State := (s.wr d v).passX n

/-- Retirement of a tagged instruction: its tokens are spent, and its pushes are made (R91, R99). -/
def State.retire (s : State) (e : Eng) (t : Toks) : State :=
  let c := s.me.pass! e 2
  let c := { c with
    popped := c.popped.set e []
    fBar := if e = Eng.f then .idle else c.fBar
    wBar := if e = Eng.w then .idle else c.wBar
    parts := if e = Eng.m then [] else c.parts }
  let s := s.setMe (c.pushTokens e (pushesOf e t))
  if s.edge.asks.isEmpty then s
  else s.setEdge { s.edge with asks := s.edge.asks.filter fun a => !(a.core == s.cur && a.eng == e) }

def State.setWait (s : State) (k : CoreId) (e : Eng) (w : Wait) : State :=
  s.setCore k { s.core k with wait := (s.core k).wait.set e w }

/-! ### Records (R428 to R430) -/

/-- Every engine waits at HALT (R419). -/
def Core.halting (c : Core) : Bool := Eng.all.all fun e => c.wait.get e == .meet 51

/-- The engines of a core pass the meeting word at which they stand. -/
def Core.passMeeting (c : Core) : Core := Eng.all.foldl (fun c e => { (c.pass! e 1) with wait := c.wait.set e .run }) c

def State.keepWake (s : State) (n : Nat) : State := s.setEdge { s.edge with wakes := insertNat s.edge.wakes n }

/-- Wakes a core that halts, or keeps the event (R419). -/
def State.wake (s : State) (k : CoreId) : State :=
  if (s.core k).halting then s.setCore k (s.core k).passMeeting else s.keepWake k

/-- What a kept wake event of a record queue is filed under: of the root queue under the root core's (R419). -/
def queueWake (k : CoreId) : Nat := 2048 + k

/-- The queue whose records are wake events of a core's mode (R419, R430). -/
def State.queueOf (s : State) (k : CoreId) : CoreId := if (s.core k).mode == .root then rootId else k

/-- A record has come to the queue of core k: the cores that halt in the queue's mode go on, and where none does the event is kept (R419).
A control core halts in root mode too after an exception has brought it there (R415). -/
def State.wakeQueue (s : State) (k : CoreId) : State :=
  let goes (j : CoreId) : Bool := s.queueOf j == k && (s.core j).mode != .tile && (s.core j).halting
  if s.cores.any fun x => goes x.1 then { s with cores := s.cores.map fun x => (x.1, if goes x.1 then x.2.passMeeting else x.2) }
  else s.keepWake (queueWake k)

/-- 256 bytes of a record from its words, zeros above. -/
def recordBytes (ws : List Nat) : List Byte := bytesOfNat 256 (pack 64 ws)

/-- Writes one record at the tail of its queue and advances the tail, unless the queue is full or has no firmware. -/
def State.tryRecord (s : State) (r : Rec) : Option State :=
  if r.root then
    let tail := wField (s.rootCsr 578) 0 16
    if (tail + 1) % 256 = wField (s.rootCsr 577) 0 16 % 256 then none
    else
      let s := s.writeBytes ((s.rootCsr 576).toNat + 256 * tail) r.bytes
      some ((s.setRootCsr 578 (wOf ((tail + 1) % 256))).wakeQueue rootId)
  else
    match s.ctlOf r.part with
    | none => none
    | some k =>
      let n := max 1 (wField (s.ctl k 275) 0 17)
      let tail := wField (s.ctl k 279) 0 16
      if (tail + 1) % n = wField (s.ctl k 278) 0 16 % n then none
      else
        let s := s.writeBytes ((s.ctl k 274).toNat + 256 * tail) r.bytes
        some ((s.setCtl k 279 (wOf ((tail + 1) % n))).wakeQueue (768 + k))

/-- Places a record, or holds it until its queue has room (R390). Records of one queue keep their order. -/
def State.record (s : State) (root : Bool) (p : Nat) (ws : List Nat) : State :=
  let r : Rec := ⟨root, p, recordBytes ws⟩
  if s.edge.records.any fun x => x.root == root && (root || x.part == p) then
    s.setEdge { s.edge with records := s.edge.records ++ [r] }
  else match s.tryRecord r with
    | some s => s
    | none => s.setEdge { s.edge with records := s.edge.records ++ [r] }

/-- The words of a record of a kind other than 0 (R428, R429). -/
def kindRecord (kind part queue seq a b c : Nat) : List Nat :=
  [kind, queue % 64 + seq % 2 ^ 48 * 64 + part % 16 * 2 ^ 56] ++ List.replicate 13 0 ++ [a, b, c]

/-- A record to a partition's firmware that belongs to no launch. -/
def State.partRecord (s : State) (p kind : Nat) (a b c : Nat) : State := s.record false p (kindRecord kind p 0 0 a b c)

/-- A record to root firmware. -/
def State.rootRecord (s : State) (kind a b c : Nat) : State := s.record true 0 (kindRecord kind 0 0 0 a b c)

/-- A device record whose source code the spec does not give (log 16). -/
def State.deviceRecord (s : State) (root : Bool) (p n x : Nat) : State :=
  s.record root p (kindRecord 11 p 0 0 (Config.sourceCode n) (Config.sourceOperand n 0 x) (Config.sourceOperand n 1 x))

/-- APPEND: a whole append reaches the launch scheduler (R258, R259). -/
def State.appendRecord (s : State) (p q : Nat) (ws : List Word) : State :=
  let x := s.queue (64 * p + q)
  if !x.cfg.getLsbD 0 || decide (Config.queueDepth ≤ x.pending.length) then
    (s.setQueue (64 * p + q) { x with ref := min 65535 (x.ref + 1) }).partRecord p 7 q (64 * q) 0
  else
    (s.setQueue (64 * p + q) { x with
      acc := (x.acc + 1) % 2 ^ 48, pending := x.pending ++ [(x.acc, ws)], idle := false }).push .schedulerIssue

/-- The instruction that engine e has fetched at its program counter and waits with: it is not fetched again (R32, R34). -/
def Core.heldAt (c : Core) (e : Eng) : Option Instr :=
  match c.wait.get e, c.held.get e with
  | .memory, some (a, i) | .pop _, some (a, i) => if a = c.pc.get e then some i else none
  | _, _ => none

/-- The least pass count among the other engines that have not ended, and the first engine that has it (R104). -/
def Core.leastOther (c : Core) (e : Eng) : Option (Nat × Eng) :=
  (Eng.all.filter fun x => x != e && c.wait.get x != .ended).foldl
    (fun m x => match m with
      | none => some ((c.pass.get x).toNat, x)
      | some (n, y) => if (c.pass.get x).toNat < n then some ((c.pass.get x).toNat, x) else some (n, y)) none

/-- R104: engine e may not pass its next word yet. -/
def Core.slipStall (c : Core) (e : Eng) : Bool :=
  match c.leastOther e with
  | none => false
  | some (m, _) => decide ((c.getC e 16).toNat ≤ (c.pass.get e).toNat - m) && decide (m ≤ (c.pass.get e).toNat)

/-- The wait code of R107 and its further field. -/
def Core.waitCode (c : Core) (e : Eng) : Nat × Nat :=
  match c.wait.get e with
  | .ended => (0, 0)
  | .pop m => (1, maskOf ((ofMask m).filter fun k => (c.tokens k).isEmpty))
  | .push m => (2, m)
  | .slip => (3, match c.leastOther e with | some (_, y) => y.num | none => 0)
  | .meet op => (4, op)
  | _ => (0, 0)

/-- R106: engine e waits on tokens, the slip window or a meeting, or has ended. -/
def Core.stuck (c : Core) (e : Eng) : Bool :=
  match c.wait.get e with
  | .ended | .meet _ => true
  | .pop m => (ofMask m).any fun k => (c.tokens k).isEmpty
  | .push m => (ofMask m).all fun k => decide (8 ≤ c.taken k)
  | .slip => c.slipStall e
  | .run | .memory => false

def Core.standing (c : Core) : Bool :=
  Eng.all.all fun e => match c.wait.get e with | .ended | .meet _ => true | _ => false

/-- Token deadlock (R106). HALT waits count as running (R419). -/
def Core.deadlocked (c : Core) : Bool :=
  c.stopped.isNone && (Eng.all.all fun e => c.stuck e && c.wait.get e != .meet 51) && !c.standing

/-- The replay slot of a task: its byte address (R391, R422). -/
def State.slotOf (s : State) (t : TaskId) : Option Nat :=
  match s.task t with
  | none => none
  | some x =>
    match s.launch x.launch with
    | none => none
    | some l => l.slots[x.role]?.map fun i => (s.partCsr l.part 274).toNat + (i + 1) * 134217728

/-- The replay bit of a task (R392): 0 where its header cannot be read (R404; log 17). -/
def State.replayable (s : State) (t : TaskId) : Bool :=
  match s.slotOf t with
  | some a => !s.badSector (a + 8) 8 && (s.numAt (a + 8) 8).testBit 1
  | none => false

/-- The words of a task-fault record (R389, R428), as the core stands. -/
def State.faultRecord (s : State) (k : CoreId) (e : Eng) (iaddr : Word) (t : Trap) : List Nat :=
  let c := s.core k
  let (lw, stepn, rpl) := match s.taskOf k with
    | some (tid, _, l) =>
      (l.queue % 64 + l.seq % 2 ^ 48 * 64 + l.part % 16 * 2 ^ 56, (c.getC .f 4).toNat, s.replayable tid)
    | none => (0, 0, false)
  let codes := Eng.all.map c.waitCode
  [t.cls * 256 + t.sub * 65536 + e.num * 16777216 + (if rpl then 67108864 else 0), lw, iaddr.toNat, stepn] ++
    c.pc.toList.map BitVec.toNat ++ c.pass.toList.map BitVec.toNat ++
    [c.toks.toNat, if t.cls = 3 then pack 8 (codes.map (·.1)) else 0, if t.cls = 3 then pack 8 (codes.map (·.2)) else 0,
     t.a.toNat, t.b.toNat, t.c.toNat]

/-- The core that stands for what a saved task's unretired instructions still do (R407; log 17). -/
def ghostOf (t : TaskId) : CoreId := 4194304 + t

def isGhost (k : CoreId) : Bool := decide (4194304 ≤ k)

/-- What a task's requests over Berast are filed under while it has no unit (log 17). -/
def savedAsker (t : TaskId) : CoreId := 1048576 + t

/-! ### Flits (R441, R442) -/

/-- The flit of a request to another module of the domain. -/
def State.flit (s : State) (p kind acc addr : Nat) (payload : List Byte) : Flit where
  kind := BitVec.ofNat 8 kind
  vc := if kind = 5 ∨ kind = 37 then 2 else if kind = 6 then 3 else 0
  dst := BitVec.ofNat 21 ((s.rootCsr 592).toNat / 512 * 512 + acc)
  src := BitVec.ofNat 21 (s.rootCsr 592).toNat
  tag := BitVec.ofNat 12 s.edge.tag
  key := BitVec.ofNat 16 (s.rootCsr (608 + p)).toNat
  addr := BitVec.ofNat 40 addr
  nsec := 0
  rsv := 0
  payload := payload ++ List.replicate (112 - payload.length) 0

/-- The byte address of the route table's entry of accelerator index `acc` (R442). -/
def State.routeAt (s : State) (acc : Nat) : Nat := (s.rootCsr 597).toNat + 8 * acc

/-- The enabled ports that reach accelerator index `acc`; none where the entry cannot be read (R404, R442; DESIGN CHOICE, log 22). -/
def State.routeMask (s : State) (acc : Nat) : Nat :=
  if s.badSector (s.routeAt acc) 8 then 0 else s.numAt (s.routeAt acc) 8 &&& (s.rootCsr 594).toNat

/-- Some enabled port reaches accelerator index `acc` (R442, R443). -/
def State.routed (s : State) (acc : Nat) : Bool := s.routeMask acc % 2 ^ 36 != 0

/-- The port on which a flit to index `acc` for byte offset `addr` leaves: the n-th enabled one of the route's mask (R442). -/
def State.portFor (s : State) (acc addr : Nat) : Option Nat :=
  let mask := s.routeMask acc
  let ports := (List.range 36).filter fun k => mask.testBit k
  if ports.isEmpty then none else ports[addr / 128 % ports.length]?

/-- Sends something at an edge of the module. -/
def State.emit (s : State) (x : Out) : State := s.setEdge { s.edge with out := s.edge.out ++ [x], tag := s.edge.tag + 1 }

/-- Drops a flit, with a record to root firmware (R441). -/
def State.dropFlit (s : State) (x : Flit) : State := s.deviceRecord true 0 5 x.kind.toNat

/-- Sends a flit on its port, without awaiting its answer; one to another domain is dropped (R441, R442). -/
def State.send (s : State) (x : Flit) : State :=
  if x.dst.toNat / 512 = (s.rootCsr 592).toNat % 2 ^ 21 / 512 then s.emit (.berast (s.portFor (x.dst.toNat % 512) x.addr.toNat) x)
  else s.dropFlit x

/-- A CTXSV or CTXRS of core k that waits works on its unit no longer (R23, R420). -/
def State.quitCtx (s : State) (k : CoreId) : State :=
  if s.edge.ctx.isEmpty then s else s.setEdge { s.edge with ctx := s.edge.ctx.filter fun x => x.core != k }

/-- A request of an engine over Berast that has ended unanswered is forgotten. A waiting arrival of BARR belongs to its BARR: its home slice
is asked to withdraw it, and says whether it has counted it, to the task that made it (R123; log 14). -/
def State.quitAsks (s : State) (k : CoreId) : State :=
  let s := s.quitCtx k
  let s := if s.edge.late.isEmpty then s else s.setEdge { s.edge with late := s.edge.late.filter fun x => x.core != k }
  if s.edge.asks.isEmpty then s
  else
    let mine := s.edge.asks.filter fun a => a.core == k
    let arrival (a : Ask) : Bool := a.flit.kind == 4 && natOfBytes (a.flit.payload.take 8) == 1
    let keep (a : Ask) : Option Ask :=
      if a.core != k then some a
      else match (s.core k).owner with
        | some t => if arrival a then some { a with core := savedAsker t } else none
        | none => none
    let s := s.setEdge { s.edge with asks := s.edge.asks.filterMap keep }
    (mine.filter fun a => arrival a && a.answer.isNone).foldl (fun s a =>
      s.send { a.flit with payload := bytesOfNat 8 3 ++ a.flit.payload.drop 8 }) s

/-! ### Churn rings that break (R333, R354) -/

def State.ownAcc (s : State) : Nat := wField (s.rootCsr 592) 0 9

/-- The task of the same launch that is a member on this module, other members excepted (log 15). -/
def State.memberTask (s : State) (t : TaskId) (m : Nat × Nat) : Option TaskId :=
  if m.1 = s.ownAcc then some (t / 256 * 256 + m.2) else none

def State.ringOf (s : State) (t : TaskId) : Option Ring := match s.task t with | some x => x.ring | none => none
def State.setRing (s : State) (t : TaskId) (r : Option Ring) : State :=
  match s.task t with
  | some x => s.setTask t { x with ring := r }
  | none => s

/-- The partition of a task. -/
def State.taskPart (s : State) (t : TaskId) : Nat :=
  match s.task t with
  | some x => match s.launch x.launch with | some l => l.part | none => 0
  | none => 0

/-- A CHNB flit: ring number, role and offset in ADDR, the step in TAG. Offset 0xFFE0 opens a ring and 0xFFC0 breaks it (R441; log 14). -/
def State.ringFlit (s : State) (p acc rid role step ofs : Nat) (data : List Byte) : Flit :=
  { s.flit p 6 acc (rid * 16777216 + role % 256 * 65536 + ofs) data with tag := BitVec.ofNat 12 step }

/-- What breaks a ring stays with the link for members here that have not opened it yet (R333; log 15). -/
def State.holdBreak (s : State) (p : Nat) (x : Flit) : State :=
  if s.edge.churn.any fun y => y.1 == p && y.2.addr == x.addr && y.2.payload.take 8 == x.payload.take 8 then s
  else s.setEdge { s.edge with churn := s.edge.churn ++ [(p, x)] }

/-- A flit that breaks a ring. -/
def breaksRing (x : Flit) : Bool := x.addr.toNat % 65536 == 65472

/-- An open ring, which its number and its opening time name (R350; log 15), is broken at task t and at the members of its launch on this
module: their pending sends are tried, and end with the
fault. Pieces that the link held back for it are dropped, and a member here that opens it later finds it broken (R333). -/
def State.breakHere (s : State) (t : TaskId) (r : Ring) : State :=
  let p := s.taskPart t
  let s := (s.setRing t (some { r with broken := true })).pushOnce (.churnStepSend t)
  let s := r.members.foldl (fun s m =>
    match s.memberTask t m with
    | none => s
    | some u =>
      match s.ringOf u with
      | some y => if y.rid = r.rid && y.t0 == r.t0 && !y.broken then (s.setRing u (some { y with broken := true })).pushOnce (.churnStepSend u) else s
      | none => s) s
  let stays (x : Nat × Flit) : Bool := breaksRing x.2 || !(x.1 == p && field x.2.addr.toNat 24 16 == r.rid)
  let s := s.setEdge { s.edge with churn := s.edge.churn.filter stays }
  s.holdBreak p (s.ringFlit p s.ownAcc r.rid 0 0 65472 (bytesOfNat 8 r.t0.toNat))

/-- An open ring breaks at every member: those on other modules are told (R333; log 14). -/
def State.breakRing (s : State) (t : TaskId) : State :=
  match s.ringOf t with
  | none => s
  | some r =>
    if r.broken then s
    else
      let p := s.taskPart t
      let away := ((r.members.map (·.1)).eraseDups.filter fun a => a != s.ownAcc && s.routed a)
      away.foldl (fun s a => s.send (s.ringFlit p a r.rid 0 0 65472 (bytesOfNat 8 r.t0.toNat))) (s.breakHere t r)

/-- A fault breaks the open ring of the task bound to core k (R354). -/
def State.breakRingAt (s : State) (k : CoreId) : State :=
  match (s.core k).owner with
  | some t => s.breakRing t
  | none => s

/-! ### Taking an exception, and the return (R41, R389, R414, R415) -/

/-- The tokens an engine popped for an instruction that has not retired go back to the heads of their FIFOs (R99). -/
def Core.putBack (c : Core) (e : Eng) : Core :=
  { c with
    fifo := (c.popped.get e).foldl (fun (f : Sparse (List Token)) (x : Nat × Token) => f.put [] x.1 (x.2 :: f.get [] x.1)) c.fifo
    popped := c.popped.set e []
    wait := c.wait.set e .run
    fBar := if e = Eng.f then .idle else c.fBar
    wBar := if e = Eng.w then .idle else c.wBar }

/-- The vector base, saved pc, cause and value registers, and the EX bit, of a firmware mode (R422, R423). -/
def State.exBit (s : State) (k : CoreId) (m : Mode) : Bool :=
  match m with
  | .control => (s.ctl (k - 768) 259).getLsbD 16
  | _ => (s.rootCsr 514).getLsbD 12

/-- A task stops at instruction boundaries: the tokens that any engine has popped for an instruction it has not retired go back, and
the waits stay as the fault record gives them (R41, R99). -/
def Core.atBoundary (c : Core) : Core := { Eng.all.foldl Core.putBack c with wait := c.wait }

/-- Every engine's unretired instruction is abandoned, and its tokens go back; a push that a retired instruction still owes
stays owed (R99). -/
def Core.abandon (c : Core) : Core :=
  { Eng.all.foldl Core.putBack c with wait := c.wait.map fun w => match w with | Wait.push m => Wait.push m | _ => Wait.run }

/-- Every engine of a core goes on at an address (R414). -/
def Core.jumpAll (c : Core) (m : Mode) (target : Word) : Core := { c.abandon with pc := .const target, mode := m }

/-- The hub reports a root failure: the root core stops (R415, R438). -/
def State.rootFail (s : State) (cause : Nat) : State :=
  s.setEdge { s.edge with
    rootStopped := true
    pfStatus := wOf (setField ((s.edge.pfStatus ||| 4#64).toNat) 16 16 cause) }

/-- enter of R414 into root mode; a second entry while EX is 1 is the double fault of R415. -/
def State.enterRoot (s : State) (k : CoreId) (cause : Nat) (value resume : Word) : State :=
  if s.exBit k .root then s.rootFail cause
  else
    let c := s.core k
    let mode := match c.mode with | .tile => 0 | .control => 1 | .root => 2
    let s := s.setRootCsr 513 resume
    let s := s.setRootCsr 514 (wOf (cause % 4096 + 4096 + mode * 8192 + c.part % 16 * 65536))
    let s := s.setRootCsr 515 value
    s.setCore k (c.jumpAll .root (s.rootCsr 512))

/-- enter of R414 into control mode; while EX is 1 the entry is into root mode with cause 0xFE (R415). -/
def State.enterControl (s : State) (k : CoreId) (cls sub : Nat) (value resume : Word) : State :=
  if s.exBit k .control then s.enterRoot k 254 value resume
  else
    let n := k - 768
    let s := s.setCtl n 258 resume
    let s := s.setCtl n 259 (wOf (cls % 256 + sub % 256 * 256 + 65536))
    let s := s.setCtl n 260 value
    s.setCore k ((s.core k).jumpAll .control (s.ctl n 257))

/-- Requests filed under j are filed under k. -/
def State.refile (s : State) (j k : CoreId) : State :=
  if s.edge.asks.isEmpty then s
  else s.setEdge { s.edge with asks := s.edge.asks.map fun a => if a.core == j then { a with core := k } else a }

/-- ERET of R414 on core k: every engine has executed the word (R31). An arrival whose withdrawal the exception asked for is again that of
the BARR to which it returns, which learns whether it has been counted (R123; log 14). -/
def State.eret (s : State) (k : CoreId) : State :=
  let s := match (s.core k).owner with | some t => s.refile (savedAsker t) k | none => s
  let c := s.core k
  let c := { c with pass := c.pass.map (· + 1) }
  match c.mode with
  | .control =>
    let n := k - 768
    let s := s.setCtl n 259 (s.ctl n 259 &&& ~~~(65536#64))
    s.setCore k (c.jumpAll .control (s.ctl n 258))
  | _ =>
    let v := s.rootCsr 514
    let m := match wField v 13 2 with | 0 => Mode.tile | 1 => Mode.control | _ => Mode.root
    let s := s.setRootCsr 514 (v &&& ~~~(4096#64))
    s.setCore k { (c.jumpAll m (s.rootCsr 513)) with part := wField v 16 4 }

/-- A record of a kind other than 0 about a launch. -/
def State.launchRecord (s : State) (l : Launch) (kind a b c : Nat) : State :=
  s.record false l.part (kindRecord kind l.part l.queue l.seq a b c)

/-- A hand-over of task t whose copy is in progress is abandoned, with a cause: the entry is dropped with a record, the failure waits to be
reported to the task, and a pre-emption that waited for the copy goes on (R300, R301). -/
def State.dropMove (s : State) (t : TaskId) (cause : Nat) : State :=
  match s.task t with
  | none => s
  | some x =>
    match s.launch x.launch with
    | none => s
    | some l =>
      match l.moving.find? fun m => m.1 == x.role with
      | none => s
      | some m =>
        let l := { l with moving := l.moving.filter fun y => y.1 != x.role }
        let ent := m.2.1.toNat
        let s := (s.setLaunch x.launch l).launchRecord l 6 x.role ent cause
        let s := if l.preempt = .pending then s.push (.preemptionStrike x.launch) else s
        s.setTask t { x with reports := x.reports ++ [(wOf (2 + 256 * cause), 0, wOf (ent * 2 ^ 32))] }

/-- What a tile task's fault sets off beside its record: the header of its replay slot has been read (R392, R402), and a hand-over whose copy is
in progress is abandoned, as an error of the old unit would have it (R300, R301; DESIGN CHOICE, log 17). -/
def State.afterFault (s : State) (t : TaskId) : State :=
  let s := match s.slotOf t with | some a => if a + 8 < s.dramBytes then s.tookOwn (a + 8) 8 else s | none => s
  s.dropMove t 1

/-- The walk of an access that takes a translation or permission fault has read table entries: what it read is cleared and scrubbed next (R379,
R402). -/
def State.walked (s : State) (p : Nat) (t : Trap) : State :=
  if (t.cls = Cls.translation.code || t.cls = Cls.permission.code) && !(s.memory.clrRows.isEmpty && s.memory.check.isEmpty) then s.push (.pageWalk (PartId.ofNat p) t.a) else s

/-- TAKING AN EXCEPTION. Engine e of core k raises a fault at its instruction: the tokens it popped go back (R99), and the home slice
discards an arrival of BARR that waits (R123). A tile
task stops, each of its engines at an instruction boundary; its record goes to the partition's queue and its open ring breaks (R41, R354, R389, R390); a task already
stopped writes none. A
firmware core enters its mode's vector (R414, R415), an access fault in control mode with a confinement record (R366). -/
def State.takeFault (s : State) (k : CoreId) (e : Eng) (t : Trap) : State :=
  let c := if (s.core k).mode = .tile then (s.core k).atBoundary else { (s.core k).putBack e with wait := (s.core k).wait }
  let iaddr := c.pc.get e
  let s := s.setCore k c
  let s := s.quitAsks k
  let s := s.setMemory { s.memory with arrivals := s.memory.arrivals.filter fun a => a.who != .core k }
  match c.mode with
  | .tile =>
    if c.stopped.isSome then s
    else
      let s := s.record false c.part (s.faultRecord k e iaddr t)
      let s := ((s.setCore k { s.core k with stopped := some t.cls }).breakRingAt k).walked c.part t
      match c.owner with | some tid => s.afterFault tid | none => s
  | .control =>
    let s := s.walked c.part t
    let s := if t.cls = 17 then s.rootRecord 10 (k - 768) t.a.toNat 0 else s
    s.enterControl k t.cls t.sub t.a iaddr
  | .root => s.enterRoot k t.cls t.a iaddr

/-- A software trap or system call of a tile task (R85, R417): the engine's pc in the record stands after the word, and
its pass count is not raised; n is OPA. -/
def State.softStop (s : State) (cls : Cls) (n : Nat) : State :=
  let c := s.me
  let iaddr := c.pc.get s.eng
  if c.stopped.isSome then s
  else
    let s := s.setMe { c.atBoundary with pc := c.pc.set s.eng (iaddr + 32) }
    let s := s.quitAsks s.cur
    let s := s.record false c.part (s.faultRecord s.cur s.eng iaddr (mkTrap cls (wOf n)))
    let s := s.setMemory { s.memory with arrivals := s.memory.arrivals.filter fun a => a.who != .core s.cur }
    (s.setMe { s.me with stopped := some cls.code }).breakRingAt s.cur

/-- The fault of the running engine as a next state. -/
def State.trapNow (s : State) (c : Cls) (a : Word := 0) (b : Word := 0) (sub : Nat := 0) : Out1 :=
  .next (s.takeFault s.cur s.eng { mkTrap c a b with sub := sub })

/-- ISSUE of an F, M, V or W instruction on engine e of the running core: it pops its tokens, or waits for them, and its copy
receives what they bring. Then its body runs and it retires, or faults with no effect at all, or waits (R60, R91, R99). -/
def issue (e : Eng) (t : Toks) (s : State) (body : State → Except Stop State) : Out1 :=
  let s := { s with eng := e }
  match s.takeTokens s.cur e (popsOf e t) with
  | none => .next (s.setWait s.cur e (.pop (maskOf (popsOf e t))))
  | some s1 =>
    match body (s1.setMe (s1.me.hear e)) with
    | .ok s2 => .next (s2.retire e t)
    | .error (.trap f) => .next (s1.takeFault s1.cur e f)
    | .error (.wait s2) => .next ((s2.setMe (s2.me.unhear s1.me)).setWait s2.cur e .memory)

end Sys2Proof.Machine
end

