-- ==== Sys2Proof/Machine/Image.lean ====
section
/-! DEFINITION. The image of a unit's state in its window (R21, R22) and in a saved image (R394, R406, R409, R420), and
reading a unit's state back from one. -/

namespace Sys2Proof.Machine

/-- Byte cells of a map of n-byte values, each at base + n × key. -/
def cellsOf {w : Nat} (base n : Nat) (m : Sparse (BitVec w)) : Sparse Byte :=
  m.flatMap fun x => Sparse.entries 0 (base + n * x.1) (bytesOfNat n x.2.toNat)

/-- The n-byte values of the cells from base on, below base + n × count. -/
def valuesOf (base n count : Nat) (cells : Sparse Byte) : Sparse Nat :=
  ((cells.filter fun x => base ≤ x.1 && x.1 < base + n * count).foldr (fun x acc =>
    let k := (x.1 - base) / n
    let v := x.2.toNat * 256 ^ ((x.1 - base) % n)
    match acc with
    | (j, y) :: rest => if j = k then (k, v + y) :: rest else (k, v) :: acc
    | [] => [(k, v)]) [])

def wordsOf (base count : Nat) (cells : Sparse Byte) : Sparse Word := (valuesOf base 8 count cells).map fun x => (x.1, wOf x.2)
def lanesOf (base count : Nat) (cells : Sparse Byte) : Sparse Lane :=
  (valuesOf base 4 count cells).map fun x => (x.1, BitVec.ofNat 32 x.2)

/-- Cells of one part of a window, moved to its own offsets. -/
def partOf (base size : Nat) (cells : Sparse Byte) : Sparse Byte :=
  (cells.filter fun x => base ≤ x.1 && x.1 < base + size).map fun x => (x.1 - base, x.2)

/-- Cells moved up by an offset. -/
def moved (base : Nat) (cells : Sparse Byte) : Sparse Byte := cells.map fun x => (x.1 + base, x.2)

/-- The copies that have not received an update (R409). -/
def Core.updMask (c : Core) (u : Update) : Nat :=
  maskOf ((Eng.all.filter fun e => e != u.maker && decide ((c.known.get e).get u.maker ≤ u.num)).map Eng.num)

/-- No token in a FIFO tells these two numbers of a maker's updates apart (R409). -/
def Core.together (c : Core) (m : Eng) (i j : Nat) : Bool :=
  (List.range 8).all fun k => (c.tokens k).all fun t => decide (i < t.get m) == decide (j < t.get m)

/-- Of updates of one maker to one register, only the last of those that may be merged is kept (R409; log 13). -/
def Core.mergeUpds (c : Core) : List Update → List Update
  | [] => []
  | u :: us =>
    if us.any fun v => v.reg == u.reg && c.updMask v == c.updMask u && c.together u.maker u.num v.num then c.mergeUpds us
    else u :: c.mergeUpds us

/-- The pending updates of a maker that a save keeps, in order. -/
def Core.savedUpds (c : Core) (m : Eng) : List Update := c.mergeUpds (c.upds.filter fun u => u.maker == m)

/-- The pending updates in the layout of R409, from offset `base`. -/
def Core.updateArea (c : Core) (base : Nat) : Sparse Byte :=
  let ups := Eng.all.flatMap fun m => (c.savedUpds m).zipIdx
  Sparse.entries 0 base (bytesOfNat 8 ups.length) ++
  ((List.range 8).flatMap fun k => ((c.tokens k).zipIdx.flatMap fun (t, i) =>
    Sparse.entries 0 (base + 256 + 64 * k + 8 * i)
      (Eng.all.flatMap fun m => bytesOfNat 2 ((c.savedUpds m).filter fun u => decide (u.num < t.get m)).length))) ++
  (ups.zipIdx.flatMap fun (u, i) => Sparse.entries 0 (base + 4096 + 16 * i)
    (bytesOfNat 8 u.1.val.toNat ++ bytesOfNat 1 u.1.reg ++ bytesOfNat 1 u.1.maker.num ++ bytesOfNat 1 (c.updMask u.1) ++ [0] ++
      bytesOfNat 2 u.2))

/-- The bits of a tile-mode CSR that its layout gives it; the others are reserved and read 0 (R6, R65 to R67, R184, R427). CCNT, SCLK and
TOKS hold nothing. -/
def csrMask (n : Nat) : Nat :=
  if n = 0 ∨ n = 3 ∨ n = 20 then 255
  else if n = 1 ∨ n = 24 then 4294967295
  else if n = 2 then 3
  else if n = 4 ∨ n = 19 ∨ n = 65 ∨ n = 66 then 18446744073709551615
  else if n = 16 then 65535
  else if n = 17 then 8323103
  else if n = 18 then 15
  else if n = 21 then 31
  else if n = 22 then 63
  else if n = 23 then 7
  else if 32 ≤ n ∧ n < 48 then 4294902271
  else if n = 64 then 131071
  else 0

/-- The CSR cells of the four engines, CCNT, SCLK and TOKS among them as they are read (R22, R65). -/
def Core.csrCells (c : Core) (ccnt sclk : Word) : Sparse Word :=
  Eng.all.foldl (fun m e =>
    let at_ (n : Nat) : Nat := 256 * e.num + n
    ((m.put 0 (at_ 5) ccnt).put 0 (at_ 6) sclk).put 0 (at_ 48) c.toks) c.csr

/-- The scalar and CSR image (R22). -/
def Core.scalarImage (c : Core) (ccnt sclk : Word) : Sparse Byte :=
  cellsOf 17072128 8 c.scal ++
  Sparse.entries 0 17073152 (c.pc.toList.flatMap (fun v => bytesOfNat 8 v.toNat) ++ c.pass.toList.flatMap fun v => bytesOfNat 8 v.toNat) ++
  Sparse.entries 0 17073280 ((List.range 8).flatMap fun k => bytesOfNat 8 (c.tokens k).length) ++
  moved 17074176 c.gen ++ moved 17075200 c.win ++ cellsOf 17076224 8 (c.csrCells ccnt sclk)

/-- The registers part of the window (R21); p0 reads all-true. -/
def Core.registerImage (c : Core) : Sparse Byte :=
  cellsOf 16777216 4 c.vreg ++ cellsOf 16908288 4 c.acc ++ Sparse.entries 0 17039360 (List.replicate 128 255#8) ++
  cellsOf 17039360 8 (c.pred.filter fun x => 16 ≤ x.1)

/-- The unit window (R21). -/
def Core.window (c : Core) (ccnt sclk : Word) : Sparse Byte :=
  c.pad ++ moved 4194304 c.wst ++ c.registerImage ++ c.scalarImage ccnt sclk

/-- Whether bytes o to o + n - 1 of a window hold something: all else is reserved (R21, R22). -/
def inWindow (o n : Nat) : Bool :=
  [(0, 16941056), (17039360, 2048), (17072128, 1088), (17073280, 64), (17074176, 1536), (17076224, 8192)].any fun r =>
    decide (r.1 ≤ o) && decide (o + n ≤ r.1 + r.2)

/-- A saved image: the window with the scale images, the pending updates and a staged source bank (R406, R420). -/
def Core.savedImage (c : Core) (ccnt sclk : Word) : Sparse Byte :=
  c.window ccnt sclk ++ moved 17825792 c.scl ++ c.updateArea 18874368 ++ moved 19922944 (c.staged.getD [])

/-- SCLK of core k: cycles since the chip barrier of its launch last released (R65, R275). -/
def State.sclkOf (s : State) (k : CoreId) : Word :=
  match s.taskOf k with
  | some (_, _, l) => s.ccnt - l.released
  | none => s.ccnt

/-- The window of core k as it reads now (R21 to R23). -/
def State.windowCells (s : State) (k : CoreId) : Sparse Byte := (s.core k).window s.ccnt (s.sclkOf k)

/-- The tokens of a FIFO whose count becomes n: those at its head stay, and further ones carry nothing. -/
def countTokens (ts : List Token) (n : Nat) : List Token := ts.take n ++ List.replicate (min 8 n - ts.length) (.const 0)

/-- The bits of byte o of a layout record that its fields take; the others are reserved (R139). -/
def genMask (o : Nat) : Byte :=
  if o < 8 ∨ 80 ≤ o ∧ o < 96 then 255
  else if o = 8 then 15
  else if o < 16 ∨ 96 ≤ o then 0
  else if o < 48 then (if o % 8 < 6 then 255 else 0)
  else if o % 8 < 4 then 255 else 0

/-- The bits of byte o of a window descriptor that its fields take; the others are reserved (R149). -/
def winMask (o : Nat) : Byte :=
  if o = 0 then 7
  else if o = 1 then 15
  else if o = 25 then 1
  else if o = 8 ∨ o = 9 ∨ o = 16 ∨ o = 17 ∨ o = 24 ∨ 32 ≤ o ∧ o < 48 then 255
  else 0

/-- Cells of records of n bytes, without the bits that a mask leaves out: reserved bits read 0 (R6). -/
def masked (n : Nat) (mask : Nat → Byte) (cells : Sparse Byte) : Sparse Byte :=
  cells.filterMap fun x => let v := x.2 &&& mask (x.1 % n); if v = 0 then none else some (x.1, v)

/-- The state of a unit whose window holds these cells: s0, p0 and reserved bits keep nothing (R6, R14, R58). -/
def Core.ofWindow (c : Core) (cells : Sparse Byte) : Core :=
  let pcs := wordsOf 17073152 8 cells
  let q (i : Nat) : Quad Word := ⟨pcs.get 0 i, pcs.get 0 (i + 1), pcs.get 0 (i + 2), pcs.get 0 (i + 3)⟩
  { c with
    pad := partOf 0 4194304 cells
    wst := partOf 4194304 12582912 cells
    vreg := lanesOf 16777216 32768 cells
    acc := lanesOf 16908288 8192 cells
    pred := (wordsOf 17039360 256 cells).filter fun x => 16 ≤ x.1
    scal := (wordsOf 17072128 128 cells).filter fun x => x.1 % 32 != 0
    pc := q 0
    pass := q 4
    fifo := (valuesOf 17073280 8 8 cells).map fun x => (x.1, countTokens (c.tokens x.1) (min 8 x.2))
    gen := masked 128 genMask (partOf 17074176 1024 cells)
    win := masked 64 winMask (partOf 17075200 512 cells)
    csr := (wordsOf 17076224 1024 cells).filterMap fun x =>
      let v := x.2 &&& wOf (csrMask (x.1 % 256))
      if v = 0 then none else some (x.1, v) }

/-- Takes the pending updates back from their area (R409). -/
def Core.ofUpdates (c : Core) (cells : Sparse Byte) (base : Nat) : Core :=
  let num (o n : Nat) : Nat := natOfBytes (cells.slice 0 (base + o) n)
  let ups := (List.range (min 8192 (num 0 8))).map fun i =>
    let o := 4096 + 16 * i
    ((⟨Eng.ofNum (num (o + 9) 1 % 4), num (o + 12) 2, num (o + 8) 1 % 32, wOf (num o 8)⟩ : Update), num (o + 10) 1)
  let made (m : Eng) : Nat := (ups.filter fun u => u.1.maker == m).length
  let known (e m : Eng) : Nat :=
    if e = m then made m
    else match ups.find? fun u => u.1.maker == m && u.2.testBit e.num with
      | some u => u.1.num
      | none => made m
  let per (f : Eng → Nat) : Quad Nat := ⟨f .f, f .m, f .v, f .w⟩
  { c with
    upds := ups.map (·.1)
    made := per made
    known := ⟨per (known .f), per (known .m), per (known .v), per (known .w)⟩
    fifo := c.fifo.map fun x =>
      (x.1, x.2.zipIdx.map fun (_, i) => per fun m => num (256 + 64 * x.1 + 8 * i + 2 * m.num) 2) }

/-- The state a saved image holds, scale images and pending updates included (R406, R408). -/
def Core.ofSaved (c : Core) (cells : Sparse Byte) : Core :=
  ({ c.ofWindow cells with scl := partOf 17825792 1048576 cells }).ofUpdates cells 18874368

end Sys2Proof.Machine
end

