-- ==== Sys2Proof/Machine/Numbers.lean ====
section
/-! DEFINITION. Exact values, element formats, rounding and group sums (R176 to R202). A value is exact: NaN, an infinity,
or a sign and a fraction of natural numbers (den positive). A rounding answers a code and the flags it raises. -/

namespace Sys2Proof

/-- An exact value; the sign of a zero is kept. -/
inductive Val where
  | nan
  | inf (neg : Bool)
  | fin (neg : Bool) (num den : Nat)
  deriving DecidableEq, Repr

/-- The flags (R67). -/
def fNX : Nat := 1
def fUF : Nat := 2
def fOF : Nat := 4
def fDZ : Nat := 8
def fNV : Nat := 16
def fSV : Nat := 32

/-- A rounding mode (R188); `dither` carries D of R190. -/
inductive Rm where
  | rne | zero | up | down | dither (d : Nat)
  deriving DecidableEq, Repr

/-- D of R190 at an element position and phase. -/
def ditherD (pos dph : Nat) : Nat := reversed 5 ((pos + dph) % 32)

def Val.zero : Val := .fin false 0 1
def Val.one : Val := .fin false 1 1

/-- The exact value of an integer. -/
def Val.ofInt (i : Int) : Val := .fin (decide (i < 0)) i.natAbs 1

/-- n × 2^e with a sign. -/
def Val.scaled (neg : Bool) (n : Nat) (e : Int) : Val :=
  if 0 ≤ e then .fin neg (n * 2 ^ e.toNat) 1 else .fin neg n (2 ^ (-e).toNat)

def Val.isNan : Val → Bool
  | .nan => true
  | _ => false

def Val.isInf : Val → Bool
  | .inf _ => true
  | _ => false

def Val.isZero : Val → Bool
  | .fin _ 0 _ => true
  | _ => false

def Val.isNeg : Val → Bool
  | .nan => false
  | .inf s => s
  | .fin s _ _ => s

def Val.neg : Val → Val
  | .nan => .nan
  | .inf s => .inf !s
  | .fin s n d => .fin (!s) n d

def Val.abs : Val → Val
  | .nan => .nan
  | .inf _ => .inf false
  | .fin _ n d => .fin false n d

/-- The signed numerator of a finite value. -/
def sNum (s : Bool) (n : Nat) : Int := if s then -(n : Int) else n

/-- a < b for values other than NaN; −0 and +0 are equal. -/
def Val.lt : Val → Val → Bool
  | .nan, _ => false
  | _, .nan => false
  | .inf s, .inf t => s && !t
  | .inf s, .fin _ _ _ => s
  | .fin _ _ _, .inf t => !t
  | .fin s n d, .fin t m e => decide (sNum s n * e < sNum t m * d)

/-- a = b for values other than NaN; −0 equals +0. -/
def Val.same : Val → Val → Bool
  | .nan, _ => false
  | _, .nan => false
  | a, b => !a.lt b && !b.lt a

/-- The exact sum with the flags of R193; `down` decides the sign of a zero sum of different signs. -/
def Val.add (down : Bool) : Val → Val → Val × Nat
  | .nan, _ => (.nan, 0)
  | _, .nan => (.nan, 0)
  | .inf s, .inf t => if s = t then (.inf s, 0) else (.nan, fNV)
  | .inf s, _ => (.inf s, 0)
  | _, .inf t => (.inf t, 0)
  | .fin s n d, .fin t m e =>
    let x := if d = e then sNum s n + sNum t m else sNum s n * e + sNum t m * d
    let den := if d = e then d else d * e
    if x = 0 then (.fin (if s = t then s else down) 0 1, 0) else (.fin (decide (x < 0)) x.natAbs den, 0)

/-- The exact product with the flags of R193. -/
def Val.mul : Val → Val → Val × Nat
  | .nan, _ => (.nan, 0)
  | _, .nan => (.nan, 0)
  | .inf s, .inf t => (.inf (s != t), 0)
  | .inf s, .fin t m _ => if m = 0 then (.nan, fNV) else (.inf (s != t), 0)
  | .fin s n _, .inf t => if n = 0 then (.nan, fNV) else (.inf (s != t), 0)
  | .fin s n d, .fin t m e => (.fin (s != t) (n * m) (d * e), 0)

/-- The quotient by a finite nonzero value. -/
def Val.divBy : Val → Val → Val
  | .fin s n d, .fin t m e => .fin (s != t) (n * e) (d * m)
  | .inf s, .fin t _ _ => .inf (s != t)
  | x, _ => x

/-- Times 2^e. -/
def Val.shift (v : Val) (e : Int) : Val :=
  match v with
  | .fin s n d => if 0 ≤ e then .fin s (n * 2 ^ e.toNat) d else .fin s n (d * 2 ^ (-e).toNat)
  | x => x

/-- floor(log2 (n / d)) for n, d > 0. -/
def floorLog2 (n d : Nat) : Int :=
  let e : Int := (msb n : Int) - (msb d : Int)
  if 0 ≤ e then (if n < d * 2 ^ e.toNat then e - 1 else e) else (if n * 2 ^ (-e).toNat < d then e - 1 else e)

/-- Fraction bits of an IEEE format (R177). -/
def Ty.fracBits : Ty → Nat
  | .f32 => 23
  | .bf16 => 7
  | .f16 => 10
  | _ => 0

/-- The exponent of the smallest normal value (R177). -/
def Ty.eMin : Ty → Int
  | .f16 => -14
  | _ => -126

/-- The exponent field of infinities and NaNs. -/
def Ty.expMax : Ty → Nat
  | .f16 => 31
  | _ => 255

/-- The canonical NaN (R178); 0 for integer types. -/
def nanCode : Ty → Nat
  | .f32 => 2143289344
  | .bf16 => 32704
  | .f16 => 32256
  | .mk8 => 128
  | .mk6 => 32
  | .mk4 => 8
  | .mk3 => 4
  | _ => 0

/-- The magnitude code of an infinity. -/
def infMag (t : Ty) : Nat := t.expMax * 2 ^ t.fracBits

/-- The code of an IEEE value from its sign and magnitude code. -/
def withSign (t : Ty) (neg : Bool) (mag : Nat) : Nat := if neg then 2 ^ (t.width - 1) + mag else mag

/-- The magnitude of field c of an MK format with m field bits, times 4^(m - 1) (R180). -/
def mkMag (m c : Nat) : Nat :=
  if c = 0 then 0
  else
    let k := m - 1 - msb c
    let n := m - 1 - k
    4 ^ (m - 1 - k) + 3 * (c % 2 ^ n) * 2 ^ (2 * (m - 1 - k) - n)

/-- decode_mk of R180 for an element of N bits. -/
def decodeMk (n code : Nat) : Val :=
  let m := n - 1
  let s := code.testBit m
  let c := code % 2 ^ m
  if c = 0 then (if s then .nan else .zero) else .fin s (mkMag m c) (4 ^ (m - 1))

/-- The value of a code of type t, without any scale (R176 to R180). -/
def valOf (t : Ty) (code : Nat) : Val :=
  match t with
  | .f32 | .bf16 | .f16 =>
    let m := t.fracBits
    let neg := code.testBit (t.width - 1)
    let e := code / 2 ^ m % (t.expMax + 1)
    let f := code % 2 ^ m
    if e = t.expMax then (if f = 0 then .inf neg else .nan)
    else if e = 0 then .scaled neg f (t.eMin - m)
    else .scaled neg (2 ^ m + f) (t.eMin - m + (e - 1 : Nat))
  | .i32 | .i16 | .i8 | .i64 => .ofInt (signed t.width code)
  | .n32 | .n16 | .n8 | .n64 | .b1 => .fin false (code % 2 ^ t.width) 1
  | .mk8 | .mk6 | .mk4 | .mk3 => decodeMk t.width code

def Ty.minInt (t : Ty) : Int := if t.isSigned then -((2 ^ (t.width - 1) : Nat) : Int) else 0
def Ty.maxInt (t : Ty) : Int := if t.isSigned then ((2 ^ (t.width - 1) : Nat) : Int) - 1 else ((2 ^ t.width : Nat) : Int) - 1

/-- Whether a magnitude N/D that lies strictly between q and q + 1 rounds away from zero (R189, R190). `odd`: q is odd. -/
def roundsAway (mode : Rm) (neg odd : Bool) (rem den : Nat) : Bool :=
  match mode with
  | .rne => decide (2 * rem > den) || (decide (2 * rem = den) && odd)
  | .zero => false
  | .up => !neg
  | .down => neg
  | .dither d => if neg then !decide (64 * (den - rem) ≥ (2 * d + 1) * den) else decide (64 * rem ≥ (2 * d + 1) * den)

/-- rnd of R189 of a finite value into f32, bf16 or f16. -/
def rndIeee (t : Ty) (mode : Rm) (sat neg : Bool) (n d : Nat) : Nat × Nat :=
  if n = 0 then (withSign t neg 0, 0)
  else
    let l := floorLog2 n d
    let e := max l t.eMin
    let u := e - t.fracBits
    let num := if 0 ≤ u then n else n * 2 ^ (-u).toNat
    let den := if 0 ≤ u then d * 2 ^ u.toNat else d
    let q := num / den
    let rem := num % den
    let away := decide (rem ≠ 0) && roundsAway mode neg (decide (q % 2 = 1)) rem den
    let mag := (e - t.eMin).toNat * 2 ^ t.fracBits + (if away then q + 1 else q)
    if infMag t ≤ mag then
      if sat then (withSign t neg (infMag t - 1), fSV + fNX) else (withSign t neg (infMag t), fOF + fNX)
    else (withSign t neg mag, if rem = 0 then 0 else if l < t.eMin then fUF + fNX else fNX)

/-- rnd of R189 of a finite value into an MK format. -/
def rndMk (t : Ty) (mode : Rm) (sat neg : Bool) (n d : Nat) : Nat × Nat :=
  let m := t.width - 1
  let top := 2 ^ m - 1
  let x := n * 4 ^ (m - 1)
  let gap := mkMag m top - mkMag m (top - 1)
  let mag (c : Nat) : Nat := if c ≤ top then mkMag m c else mkMag m top + gap
  let c := (List.range (top + 1)).foldl (fun best c => if mag (c + 1) * d ≤ x then c + 1 else best) 0
  let lo := mag c * d
  let hi := mag (c + 1) * d
  let exact := decide (x = lo)
  let away := !exact && decide (c ≤ top) && roundsAway mode neg (decide (c % 2 = 1)) (x - lo) (hi - lo)
  let c' := if away then c + 1 else c
  let sgn (c : Nat) : Nat := if neg && c != 0 then 2 ^ m + c else c
  if top < c' then (if sat then (sgn top, fSV + fNX) else (nanCode t, fOF + fNX))
  else (sgn c', if exact then 0 else if x < mag 1 * d then fUF + fNX else fNX)

/-- rnd of R189 of a finite value into an integer type. -/
def rndInt (t : Ty) (mode : Rm) (neg : Bool) (n d : Nat) : Nat × Nat :=
  let q := n / d
  let rem := n % d
  let away := decide (rem ≠ 0) && roundsAway mode neg (decide (q % 2 = 1)) rem d
  let v := sNum neg (if away then q + 1 else q)
  if v < t.minInt then (pattern t.width t.minInt, fNV + fSV)
  else if t.maxInt < v then (pattern t.width t.maxInt, fNV + fSV)
  else (pattern t.width v, if rem = 0 then 0 else fNX)

/-- rnd of R189: the code and the flags. -/
def rnd (t : Ty) (mode : Rm) (sat : Bool) (x : Val) : Nat × Nat :=
  match x with
  | .nan => if t.isF || t.isMk then (nanCode t, 0) else (0, fNV)
  | .inf neg =>
    if t.isF then (withSign t neg (infMag t), 0)
    else if t.isMk then
      if sat then ((if neg then 2 ^ t.width - 1 else 2 ^ (t.width - 1) - 1), fSV) else (nanCode t, fNV)
    else (pattern t.width (if neg then t.minInt else t.maxInt), fNV + fSV)
  | .fin neg n d =>
    if t.isF then rndIeee t mode sat neg n d
    else if t.isMk then rndMk t mode sat neg n d
    else rndInt t mode neg n d

/-- rne of R189 into f32: the code and the flags. -/
def rne32 (x : Val) : Nat × Nat := rnd .f32 .rne false x

/-- An exact operation's value and flags, rounded; flags joined (R193). -/
def rndOf (t : Ty) (mode : Rm) (sat : Bool) (x : Val × Nat) : Nat × Nat :=
  let r := rnd t mode sat x.1
  (r.1, r.2 ||| x.2)

/-- A rounded f32 sum of two f32 codes (R193, R200). -/
def addF32 (a b : Nat) : Nat × Nat := rndOf .f32 .rne false ((valOf .f32 a).add false (valOf .f32 b))

/-- The canonical code of a value that is a value of the format already: NaN becomes canonical (R178). -/
def canon (t : Ty) (code : Nat) : Nat := if (valOf t code).isNan then nanCode t else code % 2 ^ t.width

/-- The element decode of R194 under scale mode 1 (scale E) of an unscaled value: the f32 or exact value and the flags. -/
def scaleE (v : Val) (e : Nat) : Val × Nat :=
  if e = 0 then (.zero, 0)
  else if e = 255 then (.nan, 0)
  else
    let r := rne32 (v.shift ((e : Int) - 127))
    (valOf .f32 r.1, r.2)

/-- maxmk of R196, as a value. -/
def maxMk (t : Ty) : Val := decodeMk t.width (2 ^ (t.width - 1) - 1)

/-- choose_scale of R196: E and the flags. -/
def chooseScale (t : Ty) (xs : List Val) : Nat × Nat :=
  if xs.any fun x => x.isNan || x.isInf then (255, if xs.any Val.isInf then fNV else 0)
  else
    let m := xs.foldl (fun m x => if m.lt x.abs then x.abs else m) Val.zero
    if m.isZero then (0, 0)
    else (((List.range 254).find? fun (k : Nat) => !((maxMk t).shift ((k : Int) + 1 - 127)).lt m).getD 253 + 1, 0)

/-- One code of a block under scale E (R195, R238). -/
def encodeE (t : Ty) (mode : Rm) (sat : Bool) (e : Nat) (x : Val) : Nat × Nat :=
  if e = 0 then (0, 0)
  else if e = 255 then (nanCode t, 0)
  else rnd t mode sat (x.shift (127 - (e : Int)))

/-- An operand element of a dot product: its unscaled value, and whether A is filled there (R199, R205). -/
abbrev Pair := Val × Val × Bool

/-- group_value of R199: scales EA and EB as exponent bytes (127 for bf16, f16 and f32). A NaN code of A in a block that is no NaN block gives NaN
against a cleared slab too, as the pseudocode of R199 has it, where the closing words of R212 would give +0 (DEDUCED, log 13). -/
def groupValue (ea eb : Nat) (ps : List Pair) : Nat × Nat :=
  if ps.all fun p => p.2.2 then (0, 0)
  else if ea = 255 || eb = 255 then (nanCode .f32, 0)
  else
    let qs := (ps.filter fun p => !p.2.2).map fun p =>
      (if ea = 0 then Val.zero else p.1, if eb = 0 then Val.zero else p.2.1)
    if qs.any fun q => q.1.isNan || q.2.isNan then (nanCode .f32, 0)
    else
      let prods := qs.map fun q => (q.1.mul q.2).1
      if prods.any Val.isNan then (nanCode .f32, fNV)
      else
        let pos := prods.any fun p => p.isInf && !p.isNeg
        let ng := prods.any fun p => p.isInf && p.isNeg
        if pos && ng then (nanCode .f32, fNV)
        else if pos then (infMag .f32, 0)
        else if ng then (withSign .f32 true (infMag .f32), 0)
        else
          let p := prods.foldl (fun a x => (a.add false x).1) Val.zero
          if p.isZero then (0, 0) else rne32 (p.shift ((ea : Int) - 127 + ((eb : Int) - 127)))

/-- The sum S of the group values in ascending order (R200). -/
def foldGroups : List Nat → Nat × Nat
  | [] => (0, 0)
  | g :: gs => gs.foldl (fun (s, f) x => let r := addF32 s x; (r.1, f ||| r.2)) (g, 0)

/-- fold of R200 into z. -/
def foldInto (gs : List Nat) (z : Nat) : Nat × Nat :=
  match gs with
  | [] => (z, 0)
  | _ =>
    let s := foldGroups gs
    let r := addF32 z s.1
    (r.1, s.2 ||| r.2)

/-- A dot product by groups of four elements with scales 1 (R199, R313, R319): fold(G, +0). -/
def dot4 : List (Val × Val) → List Nat
  | [] => []
  | [a] => [(groupValue 127 127 [(a.1, a.2, false)]).1]
  | [a, b] => [(groupValue 127 127 [(a.1, a.2, false), (b.1, b.2, false)]).1]
  | [a, b, c] => [(groupValue 127 127 [(a.1, a.2, false), (b.1, b.2, false), (c.1, c.2, false)]).1]
  | a :: b :: c :: d :: r =>
    (groupValue 127 127 [(a.1, a.2, false), (b.1, b.2, false), (c.1, c.2, false), (d.1, d.2, false)]).1 :: dot4 r

/-- The integer clamp of R201 and R228 into type t: the pattern and the flags. -/
def satInt (t : Ty) (v : Int) : Nat × Nat :=
  if v < t.minInt then (pattern t.width t.minInt, fSV)
  else if t.maxInt < v then (pattern t.width t.maxInt, fSV)
  else (pattern t.width v, 0)

/-- The integer an integer-typed code stands for. -/
def intOf (t : Ty) (code : Nat) : Int := if t.isSigned then signed t.width code else ((code % 2 ^ t.width : Nat) : Int)

end Sys2Proof
end

