-- ==== Sys2Proof/Machine/Mem.lean ====
section
/-! DEFINITION. Virtual memory: translation and permissions (R367 to R372), who may reach what (R20, R23, R24, R366, R373),
remote windows (R441 to R443), residency copies (R289), shadow regions (R126, R127), port pages (R257, R258), and reads and
writes of bits by an instruction. An access that fails at any piece changes nothing. -/

namespace Sys2Proof.Machine

/-- What an access needs of a page (R368). -/
inductive Need where
  | fetch | read | write | both | none
  deriving DecidableEq, Repr

/-- Physical bits in one 64 KiB page: first bit address and how many. -/
abbrev Seg := Nat × Nat

/-- The partition is enabled and owns the slice of a DRAM byte address (R361, R363). -/
def State.ownsDram (s : State) (p a : Nat) : Bool :=
  decide (a < s.dramBytes) && (s.part p).enabled && (s.part p).slc.testBit (sliceOf a / 4)

/-- A flash byte address lies in the partition's namespace (R361). -/
def State.ownsFlash (s : State) (p a : Nat) : Bool :=
  let x := s.part p
  x.enabled && decide (flashBase + x.fnb ≤ a) && decide (a < flashBase + x.fnb + x.fnl)

/-- The record of a partition names a unit (R361). -/
def Part.hasUnit (x : Part) (k : CoreId) : Bool :=
  if k < 256 then x.core.testBit (k / 4)
  else if k < 512 then x.slc.testBit ((k - 256) / 4)
  else if k < 768 then x.flash.testBit (k - 512)
  else false

/-- The unit belongs to the partition (R361). -/
def State.ownsUnit (s : State) (p : Nat) (k : CoreId) : Bool := (s.part p).enabled && (s.part p).hasUnit k

/-- A table entry is valid and its reserved bits are 0 (R368). -/
def pteValid (e : Nat) : Bool := e.testBit 0 && decide (field e 5 11 = 0) && decide (field e 52 12 = 0)

/-- The bytes of the page of a leaf at a level (R367). -/
def pageBytes (level : Nat) : Nat := match level with | 0 => 549755813888 * 8 | 1 => 536870912 | _ => 65536

/-- The walk of R367 for the 64 KiB page `vp` (bits [57:19]): the leaf entry and its level. An entry in an uncorrectable sector ends it
with a sector-code fault, as any other read of an instruction (R404; log 20). -/
def State.walk (s : State) (p vp : Nat) : Except Cls (Nat × Nat) :=
  let step (table level idx : Nat) : Except Cls Nat :=
    if !s.ownsDram p table then .error .access
    else
      let e := s.numAt (table + 8 * idx) 8
      if s.badSector (table + 8 * idx) 8 then .error .sectorCode
      else if !pteValid e then .error .translation else if level = 2 && !e.testBit 1 then .error .translation else .ok e
  let leaf (e level : Nat) : Except Cls (Nat × Nat) :=
    if field e 16 36 * 65536 % pageBytes level = 0 then .ok (e, level) else .error .translation
  match step (s.part p).ptr 0 (vp / 67108864 % 8192) with
  | .error c => .error c
  | .ok e0 =>
    if e0.testBit 1 then leaf e0 0
    else match step (field e0 16 36 * 65536) 1 (vp / 8192 % 8192) with
      | .error c => .error c
      | .ok e1 =>
        if e1.testBit 1 then leaf e1 1
        else match step (field e1 16 36 * 65536) 2 (vp % 8192) with
          | .error c => .error c
          | .ok e2 => leaf e2 2

/-- The entry an access uses: the walk's, or a cached one that root firmware has changed since, freely (R372). -/
def State.mapping (s : State) (p vp : Nat) : Except Cls (Nat × Nat) :=
  match s.memory.tlb.find? fun x => x.1 == p && x.2.1 == vp with
  | none => s.walk p vp
  | some (_, _, e, level) =>
    match s.walk p vp with
    | .ok r => if r = (e, level) || s.choose (4096 + vp) 2 != 0 then .ok r else .ok (e, level)
    | .error c => if s.choose (4096 + vp) 2 = 0 then .ok (e, level) else .error c

/-- The entries that a walk reads, each named by the one before it, until one ends the walk: their byte addresses (R367). -/
def State.walkReads (s : State) (p vp : Nat) : List Nat :=
  let next (table idx : Nat) : List Nat := if s.ownsDram p table then [table + 8 * idx] else []
  let below (a idx : Nat) : List Nat :=
    let e := s.numAt a 8
    if s.badSector a 8 || !pteValid e || e.testBit 1 then [] else next (field e 16 36 * 65536) idx
  let r0 := next (s.part p).ptr (vp / 67108864 % 8192)
  let r1 := r0.flatMap fun a => below a (vp / 8192 % 8192)
  r0 ++ r1 ++ r1.flatMap fun a => below a (vp % 8192)

/-- The translation of a page is cached, as a walk leaves it (R370, R371); what the walk read is cleared and scrubbed, where it fails too (R379,
R402). -/
def State.cachePage (s : State) (p vp : Nat) : State :=
  if s.memory.tlb.any fun x => x.1 == p && x.2.1 == vp then s
  else
    let t := (s.walkReads p vp).foldl (fun s a => s.took p a 8) s
    match s.walk p vp with
    | .ok (e, level) => { t with memory := { t.memory with tlb := t.memory.tlb ++ [(p, vp, e, level)] } }
    | .error _ => t

/-- The permission an access needs (R368). -/
def allowed (n : Need) (e : Nat) : Bool :=
  match n with
  | .fetch => e.testBit 4
  | .read => e.testBit 2
  | .write => e.testBit 3
  | .both => e.testBit 2 && e.testBit 3
  | .none => true

/-- The page of a leaf above level 2 lies whole in what the partition owns, or in the remote windows (R369). What a 64 KiB page
reaches, and a control core's windows and regions, are checked where the access falls. -/
def State.leafWithin (s : State) (p a level : Nat) : Bool :=
  let n := pageBytes level
  level = 2 || match s.region a with
    | .dram => decide (a + n ≤ s.dramBytes) && (List.range 192).all fun i => s.ownsDram p (a + 262144 * i)
    | .flash => s.ownsFlash p a && s.ownsFlash p (a + n - 1)
    | _ => true

/-- The physical byte address of a 64 KiB virtual page under a mode (R411); for tile and control modes with its entry. -/
def State.pageOf (s : State) (mode : Mode) (p vp : Nat) (n : Need) : Except Cls Nat :=
  match mode with
  | .root => .ok (vp * 65536)
  | _ =>
    if 549755813888 ≤ vp then .error .translation
    else match s.mapping p vp with
      | .error c => .error c
      | .ok (e, level) =>
        if !allowed n e then .error .permission
        else if s.leafWithin p (field e 16 36 * 65536) level then .ok (field e 16 36 * 65536 + vp * 65536 % pageBytes level)
        else .error .access

/-- Splits bits at page boundaries: virtual first bit and length of each piece. -/
def pieces (size : Nat) : Nat → Nat → Nat → List (Nat × Nat)
  | 0, _, _ => []
  | fuel + 1, a, n => if n = 0 then [] else
    let k := min n (size - a % size)
    (a, k) :: pieces size fuel (a + k) (n - k)

def pagePieces (a n : Nat) : List (Nat × Nat) := if n = 0 then [] else pieces 524288 ((a + n - 1) / 524288 - a / 524288 + 1) a n

/-- A remote window's target: own module, another, or refused (R24). -/
def State.remoteTarget (s : State) (a : Nat) : Except Unit (Option Nat) :=
  let acc := field a 40 9
  if field a 49 2 ≠ 0 then .error ()
  else if wField (s.rootCsr 593) 0 9 ≤ acc then .error ()
  else if acc = wField (s.rootCsr 592) 0 9 then .ok none
  else .ok (some acc)

/-- A CTXSV or CTXRS that waits works on unit k (R23, R420). -/
def State.ctxBusy (s : State) (k : CoreId) : Bool := s.edge.ctx.any fun x => x.unit == k

/-- R20 to R24, R366, R369: the agent may reach these physical bits; a window onto the own module becomes DRAM. A control core
reaches no remote window. -/
def State.reach (s : State) (mode : Mode) (p : Nat) (g : Seg) : Except Cls Seg :=
  let a := g.1 / 8
  let idle (k : CoreId) : Bool := ((s.core k).owner.isNone || (s.core k).stopped.isSome) && !s.ctxBusy k
  match s.region a with
  | .dram =>
    if (mode == .root || s.ownsDram p a) && !s.edge.stacksOff.contains (sliceOf a / 16) then .ok g else .error .access
  | .flash => if mode == .root || s.ownsFlash p a then .ok g else .error .access
  | .remote =>
    match if mode == .control then .error () else s.remoteTarget a with
    | .error _ => .error .access
    | .ok (some _) => .ok g
    | .ok none =>
      let b := a % 1099511627776
      if b < s.dramBytes && (mode == .root || s.ownsDram p b) && !s.edge.stacksOff.contains (sliceOf b / 16) then
        .ok (b * 8 + g.1 % 8, g.2)
      else .error .access
  | .window =>
    match windowOf a with
    | some (k, o) =>
      if (mode == .root || (mode == .control && s.ownsUnit p k)) && idle k && !(s.core k).defective &&
          inWindow o ((g.1 % 8 + g.2 + 7) / 8) then .ok g
      else .error .access
    | none => .error .access
  | .barrier => if mode == .root || (mode == .control && decide ((a - barrierBase) / 268435456 = p)) then .ok g else .error .access
  | .starter => if mode == .root || (mode == .control && decide ((a - starterBase) / 268435456 = p)) then .ok g else .error .access
  | .none => .error .access

/-- TRANSLATION of the ranges of one instruction, each a need, a virtual bit address and a number of bits: every page is translated and
its permission checked before any check of where it leads (R117, R142, R172). -/
def State.resolveNeeds (s : State) (mode : Mode) (p : Nat) (rs : List (Need × Nat × Nat)) : Except Stop (List (List Seg)) :=
  let pages := rs.map fun r => (pagePieces r.2.1 r.2.2).map fun x => (x, s.pageOf mode p (x.1 / 524288) r.1)
  let faults := pages.flatten.filterMap fun y => match y.2 with | .error c => some (c, y.1.1) | .ok _ => none
  match (faults.find? fun f => f.1 != .access).or faults.head? with
  | some (c, a) => fail c (wOf a) (wOf (a / 524288))
  | none => mapEach (fun ys => mapEach (fun (y : (Nat × Nat) × Except Cls Nat) =>
      match y.2 with
      | .error c => fail c
      | .ok base =>
        match s.reach mode p (base * 8 + y.1.1 % 524288, y.1.2) with
        | .ok g => .ok g
        | .error c => fail c (wOf (base * 8 + y.1.1 % 524288))) ys) pages

/-- `resolveNeeds` of ranges (virtual bit address, bits) that need the same. -/
def State.resolveAs (s : State) (mode : Mode) (p : Nat) (n : Need) (rs : List (Nat × Nat)) : Except Stop (List (List Seg)) :=
  s.resolveNeeds mode p (rs.map fun r => (n, r))

/-- `resolveAs` in the mode and partition of the running core. -/
def State.resolve (s : State) (n : Need) (rs : List (Nat × Nat)) : Except Stop (List (List Seg)) :=
  s.resolveAs s.me.mode s.me.part n rs

/-! ### Remote accesses (R441 to R443) -/

/-- Two flits ask for the same thing. -/
def sameAsk (x y : Flit) : Bool := x.kind == y.kind && x.dst == y.dst && x.addr == y.addr && x.payload == y.payload

/-- The answers to the requests of the running engine's instruction. Requests not yet sent are sent, and the engine waits
until every one is answered (R443). An ERR answer is an access fault with its code as sub-cause. -/
def State.ask (s : State) (fs : List Flit) : Except Stop (List (List Byte)) :=
  let mine := s.edge.asks.filter fun a => a.core == s.cur && a.eng == s.eng
  let missing := fs.filter fun x => !(mine.any fun a => sameAsk a.flit x)
  if missing.any fun x => !s.routed (x.dst.toNat % 512) then
    .error (.trap { mkTrap .access with sub := 5 })
  else if !missing.isEmpty then
    .error (.wait (missing.foldl (fun s x =>
      let x := { x with tag := BitVec.ofNat 12 s.edge.tag }
      let port := s.portFor (x.dst.toNat % 512) x.addr.toNat
      let s := (s.tookOwn (s.routeAt (x.dst.toNat % 512)) 8).emit (.berast port x)
      s.setEdge { s.edge with asks := s.edge.asks ++ [⟨s.cur, s.eng, port, x, none⟩] }) s))
  else mapEach (fun x =>
    match mine.find? fun a => sameAsk a.flit x with
    | some { answer := some (kind, payload), .. } =>
      if kind = 62 then .error (.trap { mkTrap .access (wOf (x.addr.toNat * 8)) with sub := (payload.headD 0).toNat })
      else .ok payload
    | _ => .error (.wait s)) fs

/-- Every remote window among these segments has a route, unless the running instruction has sent its requests: an access fault that comes
before the checks below it (R172, R443). -/
def State.routeOk (s : State) (gs : List Seg) : Except Stop Unit :=
  if (gs.any fun g => s.region (g.1 / 8) == .remote && !s.routed (field (g.1 / 8) 40 9)) &&
      !(s.edge.asks.any fun a => a.core == s.cur && a.eng == s.eng) then
    .error (.trap { mkTrap .access with sub := 5 })
  else .ok ()

/-- Sector pieces of physical bits (R116). -/
def sectorPieces (g : Seg) : List Seg := if g.2 = 0 then [] else pieces 128 ((g.1 + g.2 - 1) / 128 - g.1 / 128 + 1) g.1 g.2

def isRemote (s : State) (g : Seg) : Bool := s.region (g.1 / 8) == .remote

/-- The accelerator index of a remote window's address. -/
def accOf (a : Nat) : Nat := field a 40 9

/-- What the requests of launch `id` that no engine makes are filed under: its commands' and its nodes' (log 1). -/
def stepAsker (id : LaunchId) : CoreId := 2097152 + id

/-- What a host access of a virtual function is filed under. -/
def hostAsker (vf : Nat) : CoreId := 2400000 + vf

/-- What an access that belongs to no instruction is filed under. -/
def outsideAsker : CoreId := 2300000

/-- Requests over Berast filed under k are forgotten. -/
def State.dropAsks (s : State) (k : CoreId) : State :=
  if s.edge.asks.isEmpty then s else s.setEdge { s.edge with asks := s.edge.asks.filter fun a => a.core != k }

/-- A read by the device for partition p, which no engine makes: requests to other modules are filed under `k`, and while it awaits
their answers it stands as a wait. -/
def State.deviceRead {α : Type} (s : State) (k p : Nat) (f : State → Except Stop (α × State)) : Except Stop (α × State) :=
  let back (t : State) : State := { t with cur := s.cur, eng := s.eng, cores := assocDrop t.cores k }
  match f ({ s with cur := k, eng := .w }.setCore k { Core.zero with part := p }) with
  | .ok (x, t) => .ok (x, (back t).dropAsks k)
  | .error (.wait t) => .error (.wait (back t))
  | .error e => .error e

/-- An action of the device for partition p, which no engine takes. -/
def State.asDevice (s : State) (k p : Nat) (f : State → Except Stop State) : Except Stop State :=
  (s.deviceRead k p fun s => (f s).map fun t => ((), t)).map (·.2)

/-! ### Residency copies (R289, R306 to R308) -/

/-- The fields of CTYPE (R306): sign width is 1; symbol bits, and the element width. -/
def ctypeWidth (t : Ty) : Nat := t.width
def codable (t : Ty) : Bool := t.isF || t.isMk
def symbolBits (t : Ty) : Nat :=
  match t with
  | .f32 | .bf16 => 8
  | .f16 => 5
  | .mk8 | .mk6 => 3
  | _ => 2

/-- Symbol, fraction length and fraction of one field (R306). -/
def splitField (t : Ty) (x : Nat) : Nat × Nat × Nat :=
  if t.isF then (field x t.fracBits (symbolBits t), t.fracBits, x % 2 ^ t.fracBits)
  else
    let m := t.width - 1
    let c := x % 2 ^ m
    if c = 0 then (m, 0, 0) else let k := m - 1 - msb c; (k, m - 1 - k, c % 2 ^ (m - 1 - k))

/-- Fraction length under a symbol, and the field a sign, symbol and fraction make (R306). -/
def fracLen (t : Ty) (sym : Nat) : Nat := if t.isF then t.fracBits else t.width - 2 - sym
def joinField (t : Ty) (sign sym frac : Nat) : Nat :=
  if t.isF then sign * 2 ^ (t.width - 1) + sym * 2 ^ t.fracBits + frac
  else
    let m := t.width - 1
    sign * 2 ^ m + (if m ≤ sym then 0 else 2 ^ (m - 1 - sym) + frac)

/-- Runs of equal symbols of at most 256 (R307). -/
def runsOf : List Nat → List (Nat × Nat)
  | [] => []
  | x :: xs =>
    match runsOf xs with
    | (y, n) :: rest => if y = x && n < 256 then (x, n + 1) :: rest else (x, 1) :: (y, n) :: rest
    | [] => [(x, 1)]

/-- Concatenation of (length, value) fields, the first lowest: the length and the number. -/
def joinBits (fs : List (Nat × Nat)) : Nat × Nat :=
  fs.foldr (fun f r => (f.1 + r.1, f.2 % 2 ^ f.1 + r.2 * 2 ^ f.1)) (0, 0)

/-- The coded unit of 32,768 bits under CTYPE code `ct` (R306, R307): stored bytes and their number. Runs are cut so that
the first of equal symbols is full. -/
def encodeUnit (ct x : Nat) : Nat × Nat :=
  let raw := ((64 + 32768) / 8, 1 + x * 2 ^ 64)
  let t := Ty.ofCode ct
  if ct > 15 || !codable t then raw
  else
    let n := 32768 / t.width
    let fs := unpack t.width n x
    let parts := fs.map (splitField t)
    let runs := (runsOf (parts.map (·.1)).reverse).reverse
    let frac := joinBits (parts.map fun p => (p.2.1, p.2.2))
    let body := joinBits ([(64, runs.length * 65536 + frac.1 * 2 ^ 32), (n, pack 1 (fs.map fun f => f / 2 ^ (t.width - 1)))] ++
      (runs.flatMap fun r => [(symbolBits t, r.1), (8, r.2 - 1)]) ++ [frac, (32768 - n * t.width, x / 2 ^ (n * t.width))])
    let len := (body.1 + 127) / 128 * 128
    if 32768 < len then raw else (len / 8, body.2)

/-- The 32,768 bits of a coded unit (R308). -/
def decodeUnit (ct y : Nat) : Nat :=
  if y.testBit 0 then field y 64 32768
  else
    let t := Ty.ofCode ct
    let n := 32768 / t.width
    let runs := field y 16 16
    let sb := symbolBits t
    let syms := (List.range runs).flatMap fun i =>
      List.replicate (field y (64 + n + i * (sb + 8) + sb) 8 + 1) (field y (64 + n + i * (sb + 8)) sb)
    let base := 64 + n + runs * (sb + 8)
    let r := (syms.take n).zipIdx.foldl (fun (out, o) (sym, i) =>
      let k := fracLen t sym
      (out ++ [joinField t (field y (64 + i) 1) sym (field y (base + o) k)], o + k)) (([], 0) : List Nat × Nat)
    pack t.width r.1 + field y (base + field y 32 32) (32768 - n * t.width) * 2 ^ (n * t.width)

/-- The residency table's records: byte address of each, of a partition (R288, R422). -/
def State.objects (s : State) (p : Nat) : List Nat :=
  match s.resolveAs .control p .none ((List.range (wField (s.partCsr p 273) 0 17)).map fun i => ((s.partCsr p 272).toNat + 1024 * i, 1024)) with
  | .ok gss => gss.filterMap fun gs => (gs.head?).map fun g => g.1 / 8
  | .error _ => []

/-- A residency record lies in an uncorrectable sector: the device takes it for no object (R404; log 18). -/
def State.badRecord (s : State) (a : Nat) : Bool := s.badSector a 128

/-- The object that contains a virtual bit address: its index and its record's byte address (R288). -/
def State.objectAt (s : State) (p va : Nat) : Option (Nat × Nat) :=
  ((s.objects p).zipIdx.find? fun (a, _) => !s.badRecord a && decide (s.numAt a 8 ≤ va) && decide (va < s.numAt a 8 + s.numAt (a + 8) 8)).map
    fun (a, i) => (i, a)

/-- The record of the object that contains a virtual bit address has been read: pending rows are cleared, and it is scrubbed (R379, R402). -/
def State.tookRecord (s : State) (va : Nat) : State :=
  match s.objectAt s.me.part va with
  | some (_, a) => s.took s.me.part a 128
  | none => s

/-- Copies of an object page above its home, lowest tier first (R289). -/
def State.copiesOf (s : State) (p vp : Nat) : List PageCopy :=
  (s.movers.copies.filter fun c => c.part == p && c.page == vp && c.tier == 0) ++
    (s.movers.copies.filter fun c => c.part == p && c.page == vp && c.tier == 1)

/-- Bytes of a copy of an object page, none where a stored sector is uncorrectable (R404, R458). -/
def State.copyBytes (s : State) (ct : Nat) (c : PageCopy) (ofs n : Nat) : Option (List Byte) :=
  if c.tier = 0 then
    let a := (c.units.headD (0, 0)).1 + ofs
    if s.badSector a n then none else some (s.bytesAt a n)
  else
    let us := c.units.zipIdx.filter fun (_, i) => decide (ofs / 4096 ≤ i) && decide (i ≤ (ofs + n - 1) / 4096)
    if us.any fun (u, _) => s.badSector u.1 u.2 then none
    else
      let bs := us.flatMap fun (u, _) => bytesOfNat 4096 (decodeUnit ct (s.numAt u.1 u.2))
      some ((bs.drop (ofs % 4096)).take n)

/-! ### Reading -/

/-- A failed access is one of the instruction at which the running engine stands. -/
def State.failedHere (s : State) (x : Failed) : Bool := x.core == s.cur && x.eng == s.eng && x.pc == s.me.pc.get s.eng

/-- The number of the class in which an access to this byte ends for its link: the stack or die is lost, or the stack has answered the running
instruction with an error (R449, R450). -/
def State.failedAt (s : State) (a : Nat) : Option Nat :=
  if s.lostAt a then some Cls.storage.code
  else if s.edge.late.isEmpty || !decide (a < s.dramBytes) then none
  else (s.edge.late.find? fun x => x.stack == some (sliceOf a / 16) && s.failedHere x).map (·.cls)

/-- SRAM words of unit k, by word of its window, that bytes o to o + n - 1 touch and that are uncorrectable (R405). -/
def State.tornBytes (s : State) (k : CoreId) (o n : Nat) : Bool :=
  s.edge.sramErr.any fun x => x.1 == k && !x.2.2 && decide (4 * x.2.1 < o + n) && decide (o < 4 * x.2.1 + 4)

/-- Bytes at physical addresses of this module, as one piece of memory yields them. An uncorrectable SRAM word of a unit ends the read of its
window with a storage fault (DESIGN CHOICE, log 13), an uncorrectable sector with a sector-code fault (R404, R405). -/
def State.physBytes (s : State) (a n : Nat) : Except Stop (List Byte) :=
  match windowOf a with
  | some (k, o) =>
    if s.badSector a n then fail .sectorCode (wOf (a * 8))
    else if s.tornBytes k o n then fail .storage (wOf (a * 8))
    else if s.memory.check.isEmpty then .ok ((s.windowCells k).slice 0 o n)
    else .ok (((s.scrub s.me.part a n).windowCells k).slice 0 o n)
  | none =>
    match s.portPage a with
    | some (p, o) => .ok ((List.range n).map fun i => s.portByte p (o + i))
    | none =>
      if let some c := s.failedAt a then .error (.trap ⟨c, 0, wOf (a * 8), 0, 0⟩)
      else if s.badSector a n then fail .sectorCode (wOf (a * 8)) else .ok (s.bytesAt a n)

/-- The bits of a segment on this module. -/
def State.segBits (s : State) (g : Seg) : Except Stop Nat :=
  match s.physBytes (g.1 / 8) ((g.1 % 8 + g.2 + 7) / 8) with
  | .ok bs => .ok (field (natOfBytes bs) (g.1 % 8) g.2)
  | .error e => .error e

/-- The remote requests that reading segments takes, one sector each. -/
def State.readAsks (s : State) (gs : List Seg) : List Flit :=
  (gs.filter (isRemote s)).flatMap fun g => (sectorPieces g).map fun x =>
    s.flit s.me.part 1 (accOf (x.1 / 8)) (x.1 / 128 * 16 % 1099511627776) []

/-- Joins the bits of consecutive pieces, the first lowest. -/
def joinSegs (gs : List Seg) (xs : List Nat) : Nat := (joinBits ((gs.zip xs).map fun (g, x) => (g.2, x))).2

/-- READS the segments of one range, after every remote sector has been answered: the bits, and the state in which the
lines read are in L2 and corrected sectors are rewritten (R402). -/
def State.readSegs (s : State) (gs : List Seg) : Except Stop (Nat × State) := do
  let asks := s.readAsks gs
  let _ ← s.ask asks
  let xs ← mapEach (fun g =>
    if isRemote s g then do
      let ps ← s.ask ((sectorPieces g).map fun x => s.flit s.me.part 1 (accOf (x.1 / 8)) (x.1 / 128 * 16 % 1099511627776) [])
      .ok (joinSegs (sectorPieces g) (((sectorPieces g).zip ps).map fun (x, b) => field (natOfBytes (b.take 16)) (x.1 % 128) x.2))
    else s.segBits g) gs
  let s := gs.foldl (fun s g =>
    let a := g.1 / 8
    let n := (g.1 % 8 + g.2 + 7) / 8
    if s.region a == .dram || s.region a == .flash then
      let s := (s.clearRows a n).scrub s.me.part a n
      s.setMemory (s.memory.touch a n)
    else if s.region a == .window then s.scrub s.me.part a n
    else s) s
  .ok (joinSegs gs xs, s)

/-- The bits of an object page from its highest copy, the next below where a sector is uncorrectable (R289, R404). -/
def State.readCopies (s : State) (va n : Nat) : Option Nat :=
  if s.movers.copies.isEmpty || s.me.mode == .root then none
  else
    let vp := va / 524288
    match s.copiesOf s.me.part vp, s.objectAt s.me.part va with
    | [], _ => none
    | _, none => none
    | cs, some (_, a) =>
      let ct := field (s.numAt (a + 16) 8) 0 4
      let ofs := va % 524288 / 8
      let k := (va % 8 + n + 7) / 8
      (cs.findSome? fun c => s.copyBytes ct c ofs k).map fun bs => field (natOfBytes bs) (va % 8) n

/-- Bytes of an object page from the copies below tier t, the highest first (R289, R404): those of tier 1, then the home. -/
def State.bytesBelow (s : State) (p ct t vp ofs n : Nat) : Option (List Byte) :=
  match ((s.copiesOf p vp).filter fun c => decide (t < c.tier)).findSome? fun c => s.copyBytes ct c ofs n with
  | some bs => some bs
  | none =>
    match s.resolveAs .control p .none [(vp * 524288 + 8 * ofs, 8 * n)] with
    | .ok [gs] =>
      if gs.any (isRemote s) then none
      else match mapEach s.segBits gs with
        | .ok xs => some (bytesOfNat n (joinSegs gs xs))
        | .error _ => none
    | _ => none

/-- Rewrites the uncorrectable sectors of one copy among n bytes of its page from the copies below, with a record, and those that the
code corrects (R402, R404). -/
def State.repairCopy (s : State) (ct : Nat) (c : PageCopy) (ofs n : Nat) : State :=
  if c.tier = 0 then
    let base := (c.units.headD (0, 0)).1
    let s := s.scrub c.part (base + ofs) n
    (sectorsOf (base + ofs) n).foldl (fun s k =>
      if !s.badSector (16 * k) 16 then s
      else match s.bytesBelow c.part ct 0 c.page (16 * k - base) 16 with
        | some bs => (s.writeBytes (16 * k) bs).deviceRecord false c.part 4 k
        | none => s) s
  else
    (c.units.zipIdx.filter fun (_, i) => decide (ofs / 4096 ≤ i) && decide (i ≤ (ofs + n - 1) / 4096)).foldl (fun s (u, i) =>
      let s := s.scrub c.part u.1 u.2
      if !s.badSector u.1 u.2 then s
      else match s.bytesBelow c.part ct 1 c.page (4096 * i) 4096 with
        | some bs =>
          let e := encodeUnit ct (natOfBytes bs)
          (s.writeBytes u.1 (bytesOfNat e.1 e.2)).deviceRecord false c.part 4 (u.1 / 16)
        | none => s) s

/-- Repairs the copies of an object page that has been read: those above the one that served, and that one (R404). -/
def State.repairCopies (s : State) (va n : Nat) : State :=
  if s.movers.copies.isEmpty || s.memory.check.isEmpty || s.me.mode == .root then s
  else match s.objectAt s.me.part va with
    | none => s
    | some (_, a) =>
      let ct := field (s.numAt (a + 16) 8) 0 4
      let ofs := va % 524288 / 8
      let k := (va % 8 + n + 7) / 8
      let cs := s.copiesOf s.me.part (va / 524288)
      let unread := ((cs.dropWhile fun c => (s.copyBytes ct c ofs k).isNone).drop 1)
      (cs.filter fun c => !unread.contains c).foldl (fun s c => s.repairCopy ct c ofs k) s

/-- The pages of an access of the running core have been walked (R370). -/
def State.cacheWalk (s : State) (va bits : Nat) : State :=
  if s.me.mode == .root then s else (pagePieces va bits).foldl (fun s x => s.cachePage s.me.part (x.1 / 524288)) s

/-- A request of the running instruction to a lower tier has missed its deadline, or the tier has answered with an error (R309). -/
def State.readsLate (s : State) : Bool := s.edge.late.any fun x => x.stack.isNone && s.failedHere x

/-- A read of n bits at this virtual bit address is an object read that tier 1 or 2 serves: no copy at tier 0 holds them unspoilt
(R289, R309, R404). -/
def State.servedBelow (s : State) (va n : Nat) : Bool :=
  s.me.mode != .root &&
    match s.objectAt s.me.part va with
    | none => false
    | some (_, a) =>
      let ct := field (s.numAt (a + 16) 8) 0 4
      !(s.copiesOf s.me.part (va / 524288)).any fun c => c.tier == 0 && (s.copyBytes ct c (va % 524288 / 8) ((va % 8 + n + 7) / 8)).isSome

/-- Reads bits whose pages are resolved, each page of a residency object from its highest copy (R289). -/
def State.readPages (s : State) (va bits : Nat) (gs : List Seg) : Except Stop (Nat × State) := do
  let _ ← s.ask (s.readAsks gs)
  let r ← (pagePieces va bits).zip gs |> eachM (fun (acc : List (Nat × Nat) × State) x =>
    if acc.2.readsLate && acc.2.servedBelow x.1.1 x.1.2 then fail .lowerTier
    else match acc.2.readCopies x.1.1 x.1.2 with
    | some v => .ok (acc.1 ++ [(x.1.2, v)], acc.2.repairCopies x.1.1 x.1.2)
    | none =>
      match acc.2.readSegs [x.2] with
      | .ok (v, s) => .ok (acc.1 ++ [(x.1.2, v)], s.repairCopies x.1.1 x.1.2)
      | .error e => .error e) <| ([], s)
  .ok ((joinBits r.1).2, r.2)

/-- LOADS n bits at a virtual bit address. -/
def State.load (s : State) (n : Need) (va bits : Nat) : Except Stop (Nat × State) := do
  let gss ← s.resolve n [(va, bits)]
  (s.cacheWalk va bits).readPages va bits (gss.headD [])

/-- Loads a little-endian number of n bytes. -/
def State.loadNum (s : State) (va n : Nat) : Except Stop (Nat × State) := s.load .read va (8 * n)

/-! ### Shadow regions (R126, R127) -/

/-- The open region that holds the sector of a byte address. -/
def State.shadowAt (s : State) (a : Nat) : Option Shadow :=
  s.memory.shadows.find? fun x => x.ranges.any fun r => decide (r.1 ≤ a) && decide (a < r.1 + r.2)

/-- Bytes of the shadow area in use by a partition (R126). -/
def State.shadowUsed (s : State) (p : Nat) : Nat :=
  16 * (s.memory.shadowData.filter fun x => match s.shadowAt (16 * x.1) with | some r => r.part == p | none => false).length

/-! ### Writing -/

/-- What an instruction writes into one sector: its number, and the mask and data of its 128 bits. -/
abbrev SectorWrite := Nat × Nat × Nat

/-- The bits under a mask replaced. -/
def maskInto (old mask data : Nat) : Nat := (data &&& mask) ||| (old &&& (2 ^ 128 - 1 - mask % 2 ^ 128))

/-- Gathers pieces of physical bits by sector; a later piece wins (R116, R143). -/
def gather (ws : List (Seg × Nat)) : List SectorWrite :=
  ws.foldl (fun acc w =>
    (sectorPieces w.1).foldl (fun acc y =>
      let old := (assoc acc (y.1 / 128)).getD (0, 0)
      let m := (2 ^ y.2 - 1) * 2 ^ (y.1 % 128)
      assocPut acc (y.1 / 128) (old.1 ||| m, maskInto old.2 m (field w.2 (y.1 - w.1.1) y.2 * 2 ^ (y.1 % 128)))) acc) []

/-- A sector write covers all that the code of its sector protects (R404): the sector, in the flash tier with the rest of its 4 KiB
unit (R450). -/
def coversCode (ws : List SectorWrite) (w : SectorWrite) : Bool :=
  w.2.1 == 2 ^ 128 - 1 && (decide (16 * w.1 < flashBase) ||
    (List.range 256).all fun i => (assoc ws (w.1 / 256 * 256 + i)).map (·.1) == some (2 ^ 128 - 1))

/-- One bit-masked merge at the home slice, or into the shadow copy of an open region (R116, R127). One that leaves part of an
uncorrectable sector as it is fails (R404). -/
def State.writeSector (s : State) (ws : List SectorWrite) (w : SectorWrite) : Except Stop State :=
  let a := 16 * w.1
  if let some c := s.failedAt a then .error (.trap ⟨c, 0, wOf (8 * a), 0, 0⟩)
  else match s.shadowAt a with
    | some r =>
      let old := s.memory.shadowData.get 0 w.1
      if old = 0 && decide ((s.partCsr r.part 277).toNat < s.shadowUsed r.part + 16) then fail .shadowCap (wOf (8 * a))
      else if old = 0 && s.badSector a 16 && !coversCode ws w then fail .sectorCode (wOf (8 * a))
      else
        let s := if old = 0 && w.2.1 != 2 ^ 128 - 1 then s.took r.part a 16 else s
        let base := if old = 0 then s.numAt a 16 else old % 2 ^ 128
        .ok (s.setMemory { s.memory with shadowData := s.memory.shadowData.put 0 w.1 (2 ^ 128 + maskInto base w.2.1 w.2.2) })
    | none =>
      if s.badSector a 16 && !coversCode ws w then fail .sectorCode (wOf (8 * a))
      else
        let s := if coversCode ws w then s else s.scrub s.me.part a 16
        .ok (s.writeBytes a (bytesOfNat 16 (maskInto (s.numAt a 16) w.2.1 w.2.2)))

/-- The sector writes of one instruction, in turn; failing flash units that they cover whole are whole again (R404, R450). -/
def State.writeSectors (s : State) (ws : List SectorWrite) : Except Stop State :=
  match eachM (fun (s : State) w => s.writeSector ws w) ws s with
  | .error e => .error e
  | .ok s =>
    if s.memory.badUnits.isEmpty then .ok s
    else .ok (s.setMemory { s.memory with badUnits := s.memory.badUnits.filter fun u =>
      !(ws.any fun w => coversCode ws w && decide (flashBase ≤ 16 * w.1) && (16 * w.1 - flashBase) / 4096 == u) })

/-- SRAM words of unit k that bits b to b + n - 1 of its window cover are whole again (R405). -/
def State.rewordBits (s : State) (k : CoreId) (b n : Nat) : State :=
  if s.edge.sramErr.isEmpty then s
  else s.setEdge { s.edge with sramErr := s.edge.sramErr.filter fun x =>
    x.1 != k || !(decide (b ≤ 32 * x.2.1) && decide (32 * x.2.1 + 32 ≤ b + n)) }

/-- Writes bits into a unit window, of an idle unit (R23). A piece of a stack engine's weight store that leaves part of an uncorrectable
sector as it is fails, as does one that leaves part of an uncorrectable SRAM word (R15, R404, R405; DESIGN CHOICE, log 13). -/
def State.windowWrite (s : State) (g : Seg) (x : Nat) : Except Stop State :=
  match windowOf (g.1 / 8) with
  | some (k, o) =>
    let a := g.1 / 8
    let n := (g.1 % 8 + g.2 + 7) / 8
    if (sectorsOf a n).any fun j => s.badSector (16 * j) 16 && !(decide (g.1 ≤ 128 * j) && decide (128 * j + 128 ≤ g.1 + g.2)) then
      fail .sectorCode (wOf g.1)
    else if (s.rewordBits k (8 * o + g.1 % 8) g.2).tornBytes k o n then fail .storage (wOf g.1)
    else
      let s := (s.rewordBits k (8 * o + g.1 % 8) g.2).scrub s.me.part a n
      let s := if s.memory.check.isEmpty then s
        else s.setMemory { s.memory with check := (sectorsOf a n).foldl (fun c j => c.put 0 j 0) s.memory.check }
      .ok (s.setCore k ((s.core k).ofWindow (writeBits (s.windowCells k) (8 * o + g.1 % 8) g.2 x)))
  | none => .ok s

/-- Clears the replay bit of the running task and notes the instruction (R392, R393). -/
def State.clearRpl (s : State) : State :=
  match (s.me).owner with
  | none => s
  | some t =>
    match s.slotOf t with
    | none => s
    | some a =>
      if (s.numAt (a + 8) 8).testBit 1 then
        let s := s.writeNum (a + 8) 8 (s.numAt (a + 8) 8 - 2)
        s.writeNum (a + 16) 8 (s.me.pc.get s.eng).toNat
      else s

/-- The segment lies wholly in open shadow regions of the running launch (R393). -/
def State.inOwnShadow (s : State) (g : Seg) : Bool :=
  match s.taskOf s.cur with
  | none => false
  | some (_, x, _) => (sectorPieces g).all fun y => match s.shadowAt (y.1 / 8) with | some r => r.launch == x.launch | none => false

/-- The remote merges that writing segments takes: data and mask of one sector each (R441). -/
def State.writeAsks (s : State) (gs : List Seg) (x : Nat) : List Flit :=
  ((gs.foldl (fun (acc : List Flit × Nat) g =>
    let ps := (sectorPieces g).map fun y =>
      let v := field x (acc.2 + (y.1 - g.1)) y.2
      s.flit s.me.part 2 (accOf (y.1 / 8)) (y.1 / 128 * 16 % 1099511627776)
        (bytesOfNat 16 (v * 2 ^ (y.1 % 128)) ++ bytesOfNat 16 ((2 ^ y.2 - 1) * 2 ^ (y.1 % 128)))
    (if isRemote s g then acc.1 ++ ps else acc.1, acc.2 + g.2)) ([], 0))).1

/-- Writes the local ones of an instruction's segments: those of unit windows in turn, and those of memory sector by sector. -/
def State.writeLocal (s : State) (ws : List (Seg × Nat)) : Except Stop State :=
  let mine := ws.filter fun w => !isRemote s w.1
  let windows := mine.filter fun w => s.region (w.1.1 / 8) == .window
  match eachM (fun (s : State) (w : Seg × Nat) => s.windowWrite w.1 w.2) windows s with
  | .ok s => s.writeSectors (gather (mine.filter fun w => s.region (w.1.1 / 8) != .window))
  | .error e => .error e

/-- CAPOK of a die: it accepts writes (R452). -/
def State.capOk (s : State) (d : Nat) : Bool := (s.edge.ident.get 0 (4096 + 256 * d + 64)).getLsbD 0

/-- A write of the flash tier waits while its die accepts none (R450, R451). -/
def State.flashHeld (s : State) (gs : List Seg) : Bool :=
  gs.any fun g => s.region (g.1 / 8) == .flash && !s.capOk ((g.1 / 8 - flashBase) / 1048576 % 4)

/-- Cuts a value over the segments of its range, the first taking the low bits. -/
def cutOver (gs : List Seg) (v : Nat) : List (Seg × Nat) :=
  (gs.foldl (fun (acc : List (Seg × Nat) × Nat) g => (acc.1 ++ [(g, acc.2 % 2 ^ g.2)], acc.2 / 2 ^ g.2)) ([], v)).1

/-- Bytes a to a + n - 1 touch a port page past its ports (R257). -/
def State.pastPort (s : State) (a n : Nat) : Bool :=
  (List.range 16).any fun k => let base := (s.edge.rootCsr.get 0 (544 + k)).toNat
    base ≠ 0 && decide (base + 4096 < a + n) && decide (a < base + 65536)

/-- A store that meets a port page past its ports is refused (R257). -/
def State.portAccess (s : State) (gs : List Seg) : Except Stop Unit :=
  match gs.find? fun g => s.pastPort (g.1 / 8) ((g.1 % 8 + g.2 + 7) / 8) with
  | some g => fail .access (wOf g.1)
  | none => .ok ()

/-- The further access checks of a store: port pages, and routes of remote windows (R172, R257, R443). -/
def State.accessOk (s : State) (gs : List Seg) : Except Stop Unit :=
  match s.portAccess gs with
  | .ok _ => s.routeOk gs
  | .error e => .error e

/-- A store that touches a port and is no whole append takes an append fault (R258). -/
def State.portFault (s : State) (gs : List Seg) : Except Stop Unit :=
  match gs.find? fun g => s.portOver (g.1 / 8) ((g.1 % 8 + g.2 + 7) / 8) with
  | some g => fail .append (wOf g.1)
  | none => .ok ()

/-- Memory has been written from outside the tile tasks: claims that are cleared there count as demotions (R290), and records of objects are
brought up to date (R288). The Creamer finds both next. -/
def State.recordsWritten (s : State) : State :=
  if (List.range 16).all fun p => wField (s.partCsr p 273) 0 17 == 0 then s else s.pushOnce .demotion

def State.firmwareWrote (s : State) : State := if s.me.mode == .tile then s else s.recordsWritten

/-- What the device's own accesses of memory are made as: no core (log 1). -/
def deviceCore : CoreId := 3145728

/-- A byte of memory, or what the last write of it holds that a flash die has yet to accept (R450, R451). -/
def State.awaitedByte (s : State) (a : Nat) : Byte :=
  (s.agenda.filterMap fun x => match x.1 with
    | some (.flashRequestRetry ⟨⟨.tier, o⟩, bs⟩) => if flashBase + o ≤ a then bs[a - flashBase - o]? else none
    | _ => none).getLastD (s.byteAt a)

/-- An agent of the device writes n bits at a bit of a byte address, for partition p: into the shadow copy where a region is open (R116, R127).
A flash die that accepts no write yet has it sent again (R450, R451). A write that cannot be made leaves what was there (log 18). -/
def State.deviceBits (s : State) (p a bit n x : Nat) : State :=
  if s.flashHeld [(8 * a + bit, n)] && (s.shadowAt a).isNone then
    let k := (bit + n + 7) / 8
    let old := natOfBytes ((List.range k).map fun i => s.awaitedByte (a + i))
    (s.emit .flashRetry).pushOnce (.flashRequestRetry ⟨⟨.tier, a - flashBase⟩, bytesOfNat k (setField old bit n x)⟩)
  else match s.asDevice deviceCore p fun s => s.writeSectors (gather [((8 * a + bit, n), x)]) with
  | .ok t => t
  | .error _ => s

/-- Firmware has written the Starter region: a node whose USED it has cleared is unused from now on, one it has set is in use, and a tree
whose GCODE or NCAP it has written is created anew (R322, R358; log 15). -/
def State.starterWrote (s old : State) (gs : List Seg) : State :=
  let ks := gs.flatMap fun g => if s.region (g.1 / 8) == .starter then (sectorPieces g).map fun x => x.1 / 128 else []
  ks.foldl (fun s k =>
    let o := (16 * k - starterBase) % 16777216
    let key := (16 * k - starterBase) / 16777216
    let node := (key, (o - 1048576) / 128)
    let freed := s.movers.freed
    if o = 0 then s.setMovers { s.movers with freed := freed.filter fun x => x.1 != key }
    else if o < 1048576 || o % 128 != 32 then s
    else if (s.byteAt (16 * k + 8)).getLsbD 0 then s.setMovers { s.movers with freed := freed.filter (· != node) }
    else if (old.byteAt (16 * k + 8)).getLsbD 0 then s.setMovers { s.movers with freed := freed.filter (· != node) ++ [node] }
    else s) s

/-- WRITES what an instruction writes, in element order. Of the checks of order 8 an append fault comes first, then shadow-capacity: the table
of R172 does not rank them (DESIGN CHOICE, log 13). The local merges are checked first; then the remote ones are made, each awaited,
and then the local ones (R91, R172). A write outside the launch's open shadow regions makes the superstep non-replayable (R393). -/
def State.writeAll (s : State) (ws : List (Seg × Nat)) : Except Stop State := do
  let gs := ws.map (·.1)
  s.accessOk gs
  s.portFault gs
  if s.flashHeld gs then .error (.wait s)
  else
    let _ ← s.writeLocal ws
    let _ ← s.ask (ws.flatMap fun w => s.writeAsks [w.1] w.2)
    let s' ← s.writeLocal ws
    .ok (if s.me.mode == .tile && !(gs.all s.inOwnShadow) then s'.clearRpl else (s'.starterWrote s gs).firmwareWrote)

/-- Writes bits to the segments of one range. -/
def State.writeSegs (s : State) (gs : List Seg) (x : Nat) : Except Stop State := s.writeAll (cutOver gs x)

/-- STORES n bits at a virtual bit address (R152). -/
def State.store (s : State) (va bits x : Nat) : Except Stop State := do
  let gss ← s.resolve .write [(va, bits)]
  (s.cacheWalk va bits).writeSegs (gss.headD []) x

/-- The address sum of R137, checked against [0, 2^64). A range that runs past 2^64 takes the address-generation fault for every instruction,
also where its own table of faults names none of order 4 (R356; DESIGN CHOICE, log 13). -/
def State.addrOk (a : Int) (w : Nat) : Except Stop Nat :=
  if a < 0 ∨ (2 ^ 64 : Nat) < a + w then fail .addrGen (wOfInt a) else .ok a.toNat

/-- A record of n bits at a multiple of `al` bits, read whole (R139, R149, R337). -/
def State.loadRecord (s : State) (va : Word) (al bits : Nat) : Except Stop (Nat × State) := do
  need (va.toNat % al == 0) .alignment va
  let a ← State.addrOk va.toNat bits
  s.load .read a bits

end Sys2Proof.Machine
end

