-- ==== Sys2Proof/Machine/Flags.lean ====
section
/-! DEFINITION. Flags, rounding modes and the dither phase of one engine's copy of the CSRs (R63, R67, R188, R191, R192). -/

namespace Sys2Proof.Machine

/-- ORs flags into FFLAGS of engine e's copy (R192). -/
def Core.raise (c : Core) (e : Eng) (fl : Nat) : Core := if fl = 0 then c else c.setC e 22 (c.getC e 22 ||| wOf fl)

/-- The dither phase of engine e's copy (R190). -/
def Core.dph (c : Core) (e : Eng) : Nat := wField (c.getC e 21) 0 5

/-- DPH moves on by one (R191). -/
def Core.advance (c : Core) (e : Eng) : Core := c.setC e 21 (wOf ((c.dph e + 1) % 32))

/-- The rounding mode of a code: 1 to 4 of RMODE, 5 dither at a position. Any other code stands only where firmware has
written a reserved value into a CSR image: it rounds in a free mode (log 2). -/
def Core.rmCode (c : Core) (e : Eng) (code pos : Nat) : Rm :=
  match code with
  | 1 => .rne
  | 2 => .zero
  | 3 => .up
  | 4 => .down
  | 5 => .dither (ditherD pos (c.dph e))
  | k => match Config.freeChoice k % 4 with | 0 => .rne | 1 => .zero | 2 => .up | _ => .down

/-- The mode of an M or V instruction's RM field: 0 takes RMODE of its engine's copy (R188). Of RMODE, 1 to 4 are modes; any other value
stands there only where firmware has written it into a CSR image, and rounds in a free one of the four (log 2). -/
def Core.rmMode (c : Core) (e : Eng) (rm pos : Nat) : Rm :=
  let mode := wField (c.getC e 23) 0 3
  c.rmCode e (if rm ≠ 0 then rm else if mode = 5 then 13 else mode) pos

/-- The mode of a bank's RND field: 0 RNE, 1 toward zero, 2 dither (R184). -/
def Core.rndMode (c : Core) (e : Eng) (rnd pos : Nat) : Rm :=
  c.rmCode e (match rnd with | 0 => 1 | 1 => 2 | 2 => 5 | _ => 8) pos

/-- Valid rows and columns of engine e's VCNT (R66). A reserved count stands only where firmware has written it into a CSR image:
it acts freely as one of the others (log 2). -/
def Core.rows (c : Core) (e : Eng) : Nat :=
  let n := wField (c.getC e 17) 0 5
  if n ≤ 16 then n else Config.freeChoice n % 17
def Core.cols (c : Core) (e : Eng) : Nat :=
  let n := wField (c.getC e 17) 16 7
  if n ≤ 64 then n else Config.freeChoice n % 65

end Sys2Proof.Machine
end

