-- ==== Sys2Proof/Machine/Operands.lean ====
section
/-! DEFINITION. Operands that live in the core: lanes of vector registers and accumulators by type (R179, R219 to R221),
predicates, banks read and written through their format (R184 to R187, R194 to R197), slabs, and the journal that a write
into a bank or slab feeds (R395). -/

namespace Sys2Proof.Machine

/-! ### Lanes -/

/-- The physical register that a name denotes through engine e's RRB (R80). -/
def Core.phys (c : Core) (e : Eng) (j : Nat) : Nat := if j < 16 then j else 16 + (j - 16 + (c.getC e 18).toNat) % 16

/-- The 64 lanes of row i of a register of a lane file. -/
def rowLanes (file : Sparse Lane) (j i : Nat) : List Nat := (file.slice 0 (1024 * j + 64 * i) 64).map BitVec.toNat

/-- Replaces a row of a lane file. -/
def setRow (file : Sparse Lane) (j i : Nat) (xs : List Nat) : Sparse Lane :=
  file.splice 0 (1024 * j + 64 * i) ((xs.take 64).map (BitVec.ofNat 32))

/-- Row i of the vector register named j by engine e. -/
def Core.vrow (c : Core) (e : Eng) (j i : Nat) : List Nat := rowLanes c.vreg (c.phys e j) i
def Core.setVrow (c : Core) (e : Eng) (j i : Nat) (xs : List Nat) : Core := { c with vreg := setRow c.vreg (c.phys e j) i xs }
def Core.arow (c : Core) (j i : Nat) : List Nat := rowLanes c.acc j i
def Core.setArow (c : Core) (j i : Nat) (xs : List Nat) : Core := { c with acc := setRow c.acc j i xs }

/-- Row i of predicate p; p0 is all true (R14). -/
def Core.prow (c : Core) (p i : Nat) : Nat := if p = 0 then 18446744073709551615 else (c.pred.get 0 (16 * p + i)).toNat
/-- Writes a row of a predicate; p0 discards it (R219). -/
def Core.setProw (c : Core) (p i x : Nat) : Core := if p = 0 then c else { c with pred := c.pred.put 0 (16 * p + i) (wOf x) }

/-- Elements of a row: 32 of a lane-pair type, else 64 (R220). -/
def elems (t : Ty) : Nat := if t.width = 64 then 32 else 64
/-- The first column of element e. -/
def elemCol (t : Ty) (e : Nat) : Nat := if t.width = 64 then 2 * e else e
/-- The element has all of its columns below COLS (R220). -/
def elemValid (t : Ty) (cols e : Nat) : Bool := if t.width = 64 then decide (2 * e + 1 < cols) else decide (e < cols)
/-- Its predicate bit (R220). -/
def elemOn (t : Ty) (mask e : Nat) : Bool := mask.testBit (elemCol t e)

/-- Codes of the elements of lanes read by type (R179). -/
def codesOf (t : Ty) : List Nat → List Nat
  | [] => []
  | x :: xs =>
    if t.width = 64 then match xs with
      | y :: ys => (x + y * 2 ^ 32) :: codesOf t ys
      | [] => [x]
    else x % 2 ^ t.width :: codesOf t xs

/-- The lanes of one element written by type (R179). -/
def lanesFor (t : Ty) (code : Nat) : List Nat :=
  if t.width = 64 then [code % 2 ^ 32, code / 2 ^ 32 % 2 ^ 32]
  else if t.isSigned then [pattern 32 (signed t.width code)]
  else [code % 2 ^ t.width]

/-- What becomes of one element: kept, or written with a code and flags. -/
abbrev Elem := Option (Nat × Nat)

/-- R221 on one row: each element that is invalid, or inactive in merge mode, keeps its lanes. -/
def rowWith (t : Ty) (old : List Nat) (new : List Elem) : List Nat × Nat :=
  (new.zipIdx).foldl (fun (acc : List Nat × Nat) (x : Elem × Nat) =>
    match x.1 with
    | none => acc
    | some (code, fl) =>
      let k := elemCol t x.2
      let ls := lanesFor t code
      (acc.1.take k ++ ls ++ acc.1.drop (k + ls.length), acc.2 ||| fl)) (old, 0)

/-- The elements of one row under VCNT, a predicate row and Z, where `op` gives an active one (R221). -/
def rowElems (t : Ty) (cols mask : Nat) (z : Bool) (op : Nat → Nat × Nat) : List Elem :=
  (List.range (elems t)).map fun e =>
    if !elemValid t cols e then none
    else if elemOn t mask e then some (op e)
    else if z then some (0, 0) else none

/-- Some valid element of type t is active (R103, R191). -/
def Core.anyActive (c : Core) (e : Eng) (t : Ty) (p : Nat) : Bool :=
  (List.range (c.rows e)).any fun i =>
    (List.range (elems t)).any fun k => elemValid t (c.cols e) k && elemOn t (c.prow p i) k

/-! ### Journal (R395) -/

/-- Appends an entry to the journal of the running task, before the first write of a row or slab in a superstep. -/
def State.journal (s : State) (kind idx : Nat) (old : List Byte) : State :=
  match s.taskOf s.cur with
  | none => s
  | some (t, x, _) =>
    match s.slotOf t with
    | none => s
    | some a =>
      if x.journal.contains (kind, idx) then s
      else
        let n := s.numAt (a + 24) 8
        let s := s.writeBytes (a + 69206016 + n) (bytesOfNat 8 kind ++ bytesOfNat 8 idx ++ old)
        let s := s.writeNum (a + 24) 8 (n + 16 + old.length)
        s.setTask t { x with journal := x.journal ++ [(kind, idx)] }

/-- Journals the scratchpad rows of bits `bit` to `bit + n - 1`. -/
def State.journalPad (s : State) (bit n : Nat) : State :=
  if n = 0 || s.me.mode != .tile then s
  else (List.range ((bit + n - 1) / 2048 - bit / 2048 + 1)).foldl (fun s k =>
    let r := bit / 2048 + k
    s.journal 0 r (s.me.pad.slice 0 (256 * r) 256)) s

/-- Journals slab j with its scale image. -/
def State.journalSlab (s : State) (j : Nat) : State :=
  if s.me.mode != .tile then s
  else s.journal 1 j (s.me.wst.slice 0 (12288 * j) 12288 ++ s.me.scl.slice 0 (1024 * j) 1024)

/-- Writes scratchpad bits by an instruction. -/
def State.padWrite (s : State) (bit n x : Nat) : State :=
  let s := s.journalPad bit n
  s.setMe { s.me with pad := writeBits s.me.pad bit n x }

/-- First sector and sectors of the data or scale image of slab j at unit k, by window address (R15). -/
def slabSectors (k j : Nat) (scale : Bool) : Nat × Nat :=
  if scale then ((windowBase k + 17825792 + 1024 * j) / 16, 64) else ((windowBase k + 4194304 + 12288 * j) / 16, 768)

/-- The image of a slab is written whole: its sectors carry their own code again (R15, R401). -/
def State.cleanSlab (s : State) (k j : Nat) (scale : Bool) : State :=
  if s.memory.check.isEmpty then s
  else
    let r := slabSectors k j scale
    s.setMemory { s.memory with check := s.memory.check.filter fun x => decide (x.1 < r.1) || decide (r.1 + r.2 ≤ x.1) }

/-- The weight store of unit k is that of a stack engine, which carries the sector code (R15). -/
def codedUnit (k : CoreId) : Bool := decide (256 ≤ k) && decide (k < 448)

/-- The sectors of an image of slab j at unit k that hold an uncorrectable sector or SRAM word, by place in the image (R402, R405). -/
def State.tornSectors (s : State) (k j : Nat) (scale : Bool) : List Nat :=
  let r := slabSectors k j scale
  if codedUnit k then (if s.memory.check.isEmpty then [] else (List.range r.2).filter fun i => s.sectorRead (r.1 + i) == .bad)
  else (s.edge.sramErr.filterMap fun x =>
    let n := (windowBase k + 4 * x.2.1) / 16
    if x.1 == k && !x.2.2 && decide (r.1 ≤ n) && decide (n < r.1 + r.2) then some (n - r.1) else none).eraseDups

/-- The code of an image of a slab at unit k is checked as it is read: uncorrectable, or corrected (R15, R402, R404). An uncorrectable SRAM word of
a slab that another unit holds stops the task that reads it, as one of its own state does (R405). -/
def State.checkSlab (s : State) (k j : Nat) (scale : Bool) : Except Stop State :=
  let r := slabSectors k j scale
  if k != s.cur && !codedUnit k && !(s.tornSectors k j scale).isEmpty then fail .storage (wOf (128 * r.1))
  else if s.memory.check.isEmpty then .ok s
  else if s.badSector (16 * r.1) (16 * r.2) then fail .sectorCode (wOf (128 * r.1))
  else .ok (s.scrub s.me.part (16 * r.1) (16 * r.2))

/-- These sectors are uncorrectable: two of their check bytes are wrong (R402). -/
def State.spoil (s : State) (ns : List Nat) : State :=
  let code (n : Nat) : Nat := 2 ^ 32 + (pack 8 (codeCheck n (s.sectorBytes n)) ^^^ 257)
  s.setMemory { s.memory with check := ns.foldl (fun c n => c.put 0 n (code n)) s.memory.check }

/-- These sectors of an image of slab j are uncorrectable at unit k too: what moves is no better than it was (R402, R405). -/
def State.tear (s : State) (k j : Nat) (scale : Bool) (ns : List Nat) : State :=
  let r := slabSectors k j scale
  if codedUnit k then s.spoil (ns.map (r.1 + ·))
  else s.setEdge { s.edge with sramErr := s.edge.sramErr ++ ns.map fun i => (k, (16 * (r.1 + i) - windowBase k) / 4, false) }

/-- The holder gives an image of slab j up: its single errors are corrected as it is read, and its uncorrectable words are no longer its task's. -/
def State.giveImage (s : State) (h j : Nat) (scale : Bool) : State :=
  let r := slabSectors h j scale
  let s := s.scrub (s.core h).part (16 * r.1) (16 * r.2)
  s.setEdge { s.edge with sramErr := s.edge.sramErr.filter fun x =>
    !(x.1 == h && decide (r.1 ≤ (windowBase h + 4 * x.2.1) / 16) && decide ((windowBase h + 4 * x.2.1) / 16 < r.1 + r.2)) }

def Core.putSlab (c d : Core) (j : Nat) : Core :=
  { c with
    wst := c.wst.splice 0 (12288 * j) (d.wst.slice 0 (12288 * j) 12288)
    scl := c.scl.splice 0 (1024 * j) (d.scl.slice 0 (1024 * j) 1024)
    holder := c.holder.put 0 j 0 }

/-- Slab j of a task comes to its core k from the unit that holds it, and carries its code, its check bytes and its errors there (R15, R216,
R302); it is then part of what a unit reset has left of the task (R383). -/
def State.takeSlab (s : State) (k : CoreId) (j : Nat) : State :=
  match (s.core k).holder.get 0 j with
  | 0 => s
  | h' + 1 =>
    let torn := s.tornSectors h' j false
    let tornScl := s.tornSectors h' j true
    let s := ((s.giveImage h' j false).giveImage h' j true)
    let s := (s.cleanSlab k j false).cleanSlab k j true
    let d := s.core h'
    let s := s.setCore k ((s.core k).putSlab d j)
    let s := (s.tear k j false torn).tear k j true tornScl
    match s.taskOf k with
    | some (t, x, _) => match x.kept with
      | some c => s.setTask t { x with kept := some (c.putSlab d j) }
      | none => s
    | none => s

/-- Every slab of a task comes to core k. -/
def State.takeSlabs (s : State) (k : CoreId) : State := (s.core k).holder.foldl (fun s x => s.takeSlab k x.1) s

/-- The sectors of a stack engine's store with check bytes of their own (R15). -/
def State.unitChecks (s : State) (k : CoreId) : List Nat :=
  (s.memory.check.map (·.1)).filter fun n => match codedSlab n with | some (u, _, _) => u == k | none => false

/-- What the code corrects of a unit's store is corrected, as the device reads it whole (R402). -/
def State.scrubUnit (s : State) (k : CoreId) : State :=
  (s.unitChecks k).foldl (fun s n => s.scrub (s.core k).part (16 * n) 16) s

/-- Byte offsets in its window of the uncorrectable sectors of a unit's store. -/
def State.badPlaces (s : State) (k : CoreId) : List Nat :=
  ((s.unitChecks k).filter fun n => s.sectorRead n == .bad).map fun n => 16 * n - windowBase k

/-- A unit is written whole: its sectors carry their own code, and its SRAM words are good (R15, R402, R405). -/
def State.cleanUnit (s : State) (k : CoreId) : State :=
  let mine := s.unitChecks k
  let s := if mine.isEmpty then s else s.setMemory { s.memory with check := s.memory.check.filter fun x => !mine.contains x.1 }
  s.setEdge { s.edge with sramErr := s.edge.sramErr.filter fun x => x.1 != k || decide (8388608 ≤ x.2.1) }

/-- The store of unit k, which has come from unit h, is no better there (R402). -/
def State.carryErrors (s : State) (h k : CoreId) : State :=
  (s.badPlaces h).foldl (fun s o =>
    if o < 16777216 then s.tear k ((o - 4194304) / 12288) false [(o - 4194304) % 12288 / 16]
    else s.tear k ((o - 17825792) / 1024) true [(o - 17825792) % 1024 / 16]) s

/-- Brings a slab held elsewhere to the bound unit, before an instruction writes it there (R216). -/
def State.pullSlab (s : State) (j : Nat) : State := s.takeSlab s.cur j

/-- Writes the data image of slab j by an instruction; the slab is then held at the bound unit (R216). -/
def State.slabWrite (s : State) (j : Nat) (xs : List Byte) : State :=
  let s := (s.journalSlab j).cleanSlab s.cur j false
  s.setMe { s.me with wst := s.me.wst.splice 0 (12288 * j) xs, holder := s.me.holder.put 0 j 0 }

/-- Writes the scale image of slab j by an instruction. -/
def State.scaleWrite (s : State) (j : Nat) (xs : List Byte) : State :=
  let s := (s.journalSlab j).cleanSlab s.cur j true
  s.setMe { s.me with scl := s.me.scl.splice 0 (1024 * j) xs, holder := s.me.holder.put 0 j 0 }

/-! ### Banks -/

/-- The format word of bank b in engine e's copy (R184). -/
def Core.bfmt (c : Core) (e : Eng) (b : Nat) : Word := c.getC e (32 + b)
def fmtTy (f : Word) : Ty := Ty.ofCode (wField f 0 4)
/-- The scale mode; the reserved value 3 stands only where firmware wrote it into a CSR image, and acts freely as one of
the others (log 2). -/
def fmtScl (f : Word) : Nat := if wField f 4 2 = 3 then Config.freeChoice 3 % 3 else wField f 4 2
def fmtRnd (f : Word) : Nat := wField f 6 2
def fmtSat (f : Word) : Bool := f.getLsbD 8
def fmtSofs (f : Word) : Nat := wField f 16 16

/-- Bits of bank b of the scratchpad. -/
def Core.bankBits (c : Core) (b bit n : Nat) : Nat := readBits c.pad (2097152 * b + bit) n
def Core.bankByte (c : Core) (b o : Nat) : Nat := (c.pad.get 0 (262144 * b + o)).toNat

/-- Elements i to i + n - 1 of a bank of this format, and their scales, lie below bank byte 0x4_0000 (R186). -/
def inBank (f : Word) (i n : Nat) : Bool :=
  decide (n = 0) || (decide ((i + n) * (fmtTy f).width ≤ 2097152) &&
    (match fmtScl f with
     | 1 => decide (4 * fmtSofs f + (i + n - 1) / 32 < 262144)
     | 2 => decide (4 * fmtSofs f + 4 * ((i + n - 1) / 1024) + 4 ≤ 262144)
     | _ => true))

/-- decode_bank of R194: the value and the flags it raises. A reserved pairing of SCL and TYPE scales by its fields (log 2). -/
def Core.decodeBank (c : Core) (e : Eng) (b i : Nat) : Val × Nat :=
  let f := c.bfmt e b
  let t := fmtTy f
  let v := valOf t (c.bankBits b (i * t.width) t.width)
  match fmtScl f with
  | 1 => scaleE v (c.bankByte b (4 * fmtSofs f + i / 32))
  | 2 =>
    let r := rndOf .f32 .rne false (v.mul (valOf .f32 (c.bankBits b (32 * fmtSofs f + 32 * (i / 1024)) 32)))
    (valOf .f32 r.1, r.2)
  | _ => (v, 0)

/-- encode_bank of R195 under scale mode 0 or 2. -/
def State.encodeBank (s : State) (e : Eng) (b i : Nat) (x : Val) : State × Nat :=
  let c := s.me
  let f := c.bfmt e b
  let t := fmtTy f
  let x := if fmtScl f = 2 then
      let g := valOf .f32 (c.bankBits b (32 * fmtSofs f + 32 * (i / 1024)) 32)
      if g.isZero || g.isInf || g.isNan then Val.nan else x.divBy g
    else x
  let r := rnd t (c.rndMode e (fmtRnd f) (i % 32)) (fmtSat f) x
  (s.padWrite (2097152 * b + i * t.width) t.width r.1, r.2)

/-- encode_block of R195: block j of a bank of scale mode 1. A format whose SCL and TYPE may not stand together (R185) stands only where
firmware has written it into a CSR image; it is read and written by its fields as they stand (log 2). -/
def State.encodeBlock (s : State) (e : Eng) (b j : Nat) (xs : List Val) : State × Nat :=
  let c := s.me
  let f := c.bfmt e b
  let t := fmtTy f
  let scale := chooseScale t xs
  let codes := xs.zipIdx.map fun (x, k) => encodeE t (c.rndMode e (fmtRnd f) k) (fmtSat f) scale.1 x
  let s := s.padWrite (2097152 * b + 8 * (4 * fmtSofs f + j)) 8 scale.1
  (s.padWrite (2097152 * b + 32 * j * t.width) (32 * t.width) (pack t.width (codes.map (·.1))),
    codes.foldl (fun a x => a ||| x.2) scale.2)

end Sys2Proof.Machine
end

