-- ==== Sys2Proof/Machine/Matrix.lean ====
section
/-! DEFINITION. M instructions: products of tiles, accumulator moves, and filling the weight store (R203 to R218). -/

namespace Sys2Proof.Machine

/-! ### Generators (R139 to R141) -/

/-- The fields of generator g (R139). -/
structure Gen where
  base : Nat
  width : Nat
  fault : Bool
  stride : List Int
  ext : List Nat
  lo : Nat
  hi : Nat
  deriving DecidableEq, Repr

/-- The element width of a width code 0 to 7 (R74). -/
def widthOf (code : Nat) : Nat := [1, 3, 4, 6, 8, 16, 32, 64].getD code 64

/-- A layout record's 1,024 bits (R139). -/
def genOf (x : Nat) : Gen where
  base := field x 0 64
  width := widthOf (field x 64 3)
  fault := !x.testBit 67
  stride := (List.range 4).map fun k => signed 48 (field x (128 + 64 * k) 48)
  ext := (List.range 4).map fun k => field x (384 + 64 * k) 32
  lo := field x 640 64
  hi := field x 704 64

/-- Generator g as it stands. -/
def Core.genAt (c : Core) (g : Nat) : Gen := genOf (natOfBytes (c.gen.slice 0 (128 * g) 128))

def Gen.strideAt (g : Gen) (k : Nat) : Int := g.stride.getD k 0
def Gen.extAt (g : Gen) (k : Nat) : Nat := g.ext.getD k 0
/-- The generator has not been loaded since it was cleared (R140). -/
def Gen.unloaded (g : Gen) : Bool := g.ext.any (· == 0)

/-! ### The weight store (R203, R204) -/

/-- Slab depth D and slabs per K-slab of a B type (R203). -/
def depthOf (t : Ty) : Nat := if t.width = 16 then 96 else if t.width = 8 then 192 else 384
def slabsPer (t : Ty) : Nat := if t = .mk6 then 2 else 1

/-- The core that holds slab j of the running task (R302). -/
def State.slabCore (s : State) (j : Nat) : Core := match s.me.holder.get 0 j with | 0 => s.me | h => s.core (h - 1)
def State.slabData (s : State) (j : Nat) : List Byte := (s.slabCore j).wst.slice 0 (12288 * j) 12288
def State.slabScales (s : State) (j : Nat) : List Byte := (s.slabCore j).scl.slice 0 (1024 * j) 1024

/-- The bits of column c of a K-slab that begins at slab j (R203). -/
def State.columnBits (s : State) (t : Ty) (j c : Nat) : Nat :=
  let x := natOfBytes (((s.slabData j).drop (192 * c)).take 192)
  if t = .mk6 then x + natOfBytes (((s.slabData (j + 1)).drop (192 * c)).take 96) * 2 ^ 1536 else x

/-- Elements of column c of n K-slabs from slab j on, as codes. -/
def State.columnCodes (s : State) (t : Ty) (j n c : Nat) : List Nat :=
  (List.range n).flatMap fun k => unpack t.width (depthOf t) (s.columnBits t (j + slabsPer t * k) c)

/-! ### The A operand (R205, R206) -/

/-- One A element: filled, a code at a bank bit, or a check it breaks. -/
inductive AElem where
  | filled | code (bit : Nat) | range
  /-- outside LO to HI of a generator that faults, at this bank bit -/
  | bounds (bit : Nat)
  deriving DecidableEq, Repr

/-- A(i, kk) of R205 for x = k0 + kk. -/
def Gen.elemA (g : Gen) (x : Int) (i : Nat) : AElem :=
  if x < 0 ∨ (g.extAt 0 : Int) ≤ x ∨ g.extAt 1 ≤ i then .filled
  else
    let addr := (g.base : Int) + x * g.strideAt 0 + (i : Int) * g.strideAt 1
    if addr < 0 ∨ 2097152 < addr + g.width then .range
    else if addr < g.lo ∨ (g.hi : Int) < addr + g.width then (if g.fault then .bounds addr.toNat else .filled)
    else .code addr.toNat

/-- Row i of A over K elements. -/
def Gen.rowA (g : Gen) (k0 : Int) (k i : Nat) : List AElem := (List.range k).map fun (kk : Nat) => g.elemA (k0 + kk) i

/-- The scale byte's bank byte of one group of A: that of the block of its first element that is not filled (R206). -/
def scaleByteA (f : Word) (es : List AElem) : Option Nat :=
  es.findSome? fun e => match e with
    | .code bit | .bounds bit => some (4 * fmtSofs f + bit / (32 * (fmtTy f).width))
    | _ => none

/-- A product of tiles: its operands, read and checked (R205 to R207, R218). -/
structure Tile where
  n : Nat
  j : Nat
  rows : List (List AElem)
  deriving DecidableEq, Repr

/-- The checks of R218, in order, for MMA and MMAI. -/
def State.tile (s : State) (x : VW) : Except Stop Tile := do
  let v := s.rd x.c
  let j := wField v 0 10
  let n := wField v 10 10 + 1
  let k0 := signed 32 (wField v 20 32)
  let t := x.ty
  let c := s.me
  let g := c.genAt x.b.val
  let f := c.bfmt .m x.a.val
  let ta := fmtTy f
  let rows := (List.range (c.rows .m)).map fun i => if g.unloaded then [] else g.rowA k0 (n * depthOf t) i
  need (wField v 52 12 == 0) .localRange v
  need (decide (j + slabsPer t * n ≤ 1024)) .localRange v
  need (rows.all fun r => r.all (· != .range)) .localRange v
  need (if t.isMk then ta.isMk && fmtScl f == 1
    else fmtScl f == 0 && (if t.isF then ta == .bf16 || ta == .f16 else ta == .i8 || ta == .n8)) .operandFormat v
  need (g.unloaded || g.width == ta.width) .operandFormat v
  need (!g.unloaded) .layout v
  need (!t.isMk || (g.strideAt 0 == g.width && ((g.base : Int) + k0 * g.width) % (32 * g.width) == 0 &&
    g.strideAt 1 % (32 * g.width) == 0)) .layout v
  need (!t.isMk || rows.all fun r => (groupsOf 32 r).all fun es =>
    match scaleByteA f es with | some o => decide (o < 262144) | none => true) .localRange v
  need (rows.all fun r => r.all fun e => match e with | .bounds _ => false | _ => true) .bounds v
  .ok ⟨n, j, rows⟩

/-- Holders other than the bound unit of the slabs that a tile reads (R216). -/
def State.holders (s : State) (t : Ty) (x : Tile) : List CoreId :=
  ((List.range (slabsPer t * x.n)).filterMap fun k =>
    match s.me.holder.get 0 (x.j + k) with | 0 => none | h => some (h - 1)).eraseDups

/-- Waits until every part of a split instruction has returned (R216). -/
def State.partsDone (s : State) (t : Ty) (x : Tile) : Except Stop Unit :=
  if (s.holders t x).all fun h => s.me.parts.contains h then .ok ()
  else .error (.wait ((s.holders t x).foldl (fun s h =>
    if s.me.parts.contains h then s else s.pushOnce (.partsRequestReturn s.cur h)) s))

/-- The slabs that a tile reads are checked where they lie, with their scale images for MK types (R15, R404, R405). Every sector of an image is
checked, those whose bits R203 and R204 ignore too: the spec does not say whether the instruction reads them (DESIGN CHOICE, log 13). -/
def State.slabsRead (s : State) (t : Ty) (x : Tile) : Except Stop State :=
  if s.memory.check.isEmpty && s.edge.sramErr.isEmpty then .ok s
  else eachM (fun (s : State) i =>
    let j := x.j + i
    let k := match s.me.holder.get 0 j with | 0 => s.cur | h => h - 1
    match s.checkSlab k j false with
    | .error e => .error e
    | .ok s => if t.isMk then s.checkSlab k j true else .ok s) (List.range (slabsPer t * x.n)) s

/-- The code of an A element; 0 where it is filled. -/
def Core.codeA (c : Core) (bank w : Nat) (e : AElem) : Nat :=
  match e with
  | .code bit => c.bankBits bank bit w
  | _ => 0

/-- Rewrites the accumulator: `op i c old` for active lanes, +0 for inactive ones in zero mode (R208, R210). -/
def State.accLanes (s : State) (x : VW) (op : Nat → Nat → Nat → Nat × Nat) : State :=
  let c := s.me
  let r := (List.range (c.rows .m)).foldl (fun (acc : Core × Nat) i =>
    let old := c.arow x.d.val i
    let row := rowWith .n32 old (rowElems .n32 (c.cols .m) (c.prow x.pred.val i) x.z fun k => op i k (old.getD k 0))
    (acc.1.setArow x.d.val i row.1, acc.2 ||| row.2)) (c, 0)
  s.setMe (r.1.raise .m r.2)

/-- MMA (R208). -/
def execMma (x : VW) (s : State) : Out1 := issue .m x.tk s fun s => do
  let q ← s.tile x
  s.partsDone x.ty q
  let s ← s.slabsRead x.ty q
  let c := s.me
  let t := x.ty
  let f := c.bfmt .m x.a.val
  let ta := fmtTy f
  let g := if t.isMk then 32 else 4
  let rows := q.rows.map fun r => (groupsOf g r).map fun es =>
    ((if t.isMk then (match scaleByteA f es with | some o => c.bankByte x.a.val o | none => 0) else 127),
      es.map fun e => (valOf ta (c.codeA x.a.val ta.width e), e == .filled))
  let cols := (List.range (c.cols .m)).map fun col =>
    let codes := groupsOf g (s.columnCodes t q.j q.n col)
    codes.zipIdx.map fun (es, k) =>
      ((if t.isMk then ((s.slabScales (q.j + slabsPer t * (32 * k / depthOf t))).getD (16 * col + 32 * k % depthOf t / 32) 0).toNat
        else 127), es.map (valOf t))
  .ok (s.accLanes x fun i col old =>
    let gs := ((rows.getD i []).zip (cols.getD col [])).map fun (a, b) =>
      groupValue a.1 b.1 ((a.2.zip b.2).map fun (uv : (Val × Bool) × Val) => (uv.1.1, uv.2, uv.1.2))
    let r := foldInto (gs.map (·.1)) old
    (r.1, gs.foldl (fun fl y => fl ||| y.2) r.2))

/-- MMAI (R209). -/
def execMmai (x : VW) (s : State) : Out1 := issue .m x.tk s fun s => do
  let q ← s.tile x
  s.partsDone x.ty q
  let s ← s.slabsRead x.ty q
  let c := s.me
  let t := x.ty
  let ta := fmtTy (c.bfmt .m x.a.val)
  let rows := q.rows.map fun r => r.map fun e => if e = .filled then (0 : Int) else intOf ta (c.codeA x.a.val ta.width e)
  let cols := (List.range (c.cols .m)).map fun col => (s.columnCodes t q.j q.n col).map (intOf t)
  .ok (s.accLanes x fun i col old =>
    let p := ((rows.getD i []).zip (cols.getD col [])).foldl (fun (a : Int) (u : Int × Int) => a + u.1 * u.2) 0
    satInt .i32 (intOf .i32 old + p))

/-- MMV: lanes of a vector register, unchanged (R210). -/
def execMmv (x : VW) (s : State) : Out1 := issue .m x.tk s fun s =>
  let j := s.me.phys .m x.a.val
  .ok (s.accLanes x fun i k _ => ((s.me.vreg.get 0 (1024 * j + 64 * i + k)).toNat, 0))
/-- MZ: +0 (R210). -/
def execMz (x : VW) (s : State) : Out1 := issue .m x.tk s fun s => .ok (s.accLanes x fun _ _ _ => (0, 0))
/-- MACC: adds lanes of an accumulator, or with sub 1 of a vector register (R210). -/
def execMacc (x : VW) (s : State) : Out1 := issue .m x.tk s fun s =>
  let c := s.me
  let src (i k : Nat) : Nat :=
    if x.sub = 1 then (c.vreg.get 0 (1024 * c.phys .m x.a.val + 64 * i + k)).toNat
    else (c.acc.get 0 (1024 * x.a.val + 64 * i + k)).toNat
  let mode := c.rmMode .m x.rm.val 0
  .ok (s.accLanes x fun i k old =>
    if x.ty.isF then rndOf .f32 mode false ((valOf .f32 old).add (mode == .down) (valOf .f32 (src i k)))
    else satInt .i32 (intOf .i32 old + intOf .i32 (src i k)))

/-- MWCP: bank words into data images, or with sub 1 into scale images (R211). -/
def execMwcp (x : VW) (s : State) : Out1 := issue .m x.tk s fun s => do
  let v := s.rd x.b
  let w0 := wField v 0 16
  let j := wField v 16 10
  let n := wField v 26 10 + 1
  let words := if x.sub = 1 then 256 else 3072
  need (wField v 36 28 == 0) .localRange v
  need (decide (j + n ≤ 1024)) .localRange v
  need (decide (w0 + words * n ≤ 65536)) .localRange v
  .ok ((List.range n).foldl (fun s t =>
    let bytes := s.me.pad.slice 0 (262144 * x.a.val + 4 * (w0 + words * t)) (4 * words)
    let s := s.pullSlab (j + t)
    if x.sub = 1 then s.scaleWrite (j + t) bytes else s.slabWrite (j + t) bytes) s)

/-- MWCLR: zeros in the data and scale images of slabs (R212). -/
def execMwclr (x : VW) (s : State) : Out1 := issue .m x.tk s fun s => do
  let v := s.rd x.a
  let j := wField v 0 10
  let n := wField v 10 10 + 1
  need (wField v 20 44 == 0) .localRange v
  need (decide (j + n ≤ 1024)) .localRange v
  .ok ((List.range n).foldl (fun s t =>
    let s := s.pullSlab (j + t)
    (s.slabWrite (j + t) (List.replicate 12288 0)).scaleWrite (j + t) (List.replicate 1024 0)) s)

end Sys2Proof.Machine
end

