-- ==== Sys2Proof/Machine/Replay.lean ====
section
/-! DEFINITION. The result log of a task's engines and its use in a replay (R392, R396, R398). -/

namespace Sys2Proof.Machine

/-- What the log gives an instruction: nothing (it acts), an entry in a replay, or an entry of another instruction. -/
inductive Logged where
  | act
  | entry (v : Word) (s : State)
  | diverged
  deriving DecidableEq, Repr

/-- The next log entry of the running engine, while a replay has entries left (R398). What is read of the log is put right; one whose sector is
uncorrectable is no entry of the instruction, so the launch ends (R402, R404; log 17). -/
def State.logNext (s : State) : Logged :=
  match s.taskOf s.cur with
  | none => .act
  | some (t, x, _) =>
    match s.slotOf t with
    | none => .act
    | some a =>
      let e := s.eng.num
      let n := s.numAt (a + 32 + 8 * e) 8
      let k := s.numAt (a + 64 + 8 * e) 8
      if !x.replaying || n ≤ k then .act
      else
        let at_ := a + 1048576 + 262144 * e + 16 * k
        if s.badSector (a + 32) 64 || s.badSector at_ 16 then .diverged
        else if wOf (s.numAt (at_ + 8) 8) = s.me.pc.get s.eng then
          .entry (wOf (s.numAt at_ 8)) (((s.took s.me.part (a + 32) 64).took s.me.part at_ 16).writeNum (a + 64 + 8 * e) 8 (k + 1))
        else .diverged

/-- Appends a result to the log of the running engine; a full log makes the superstep non-replayable (R393, R396). -/
def State.logPut (s : State) (v : Word) : State :=
  match s.taskOf s.cur with
  | none => s
  | some (t, x, _) =>
    match s.slotOf t with
    | none => s
    | some a =>
      let e := s.eng.num
      let n := s.numAt (a + 32 + 8 * e) 8
      if 16384 ≤ n then
        let s := s.clearRpl
        s.writeNum (a + 8) 8 (s.numAt (a + 8) 8 ||| 4)
      else
        let s := s.writeBytes (a + 1048576 + 262144 * e + 16 * n) (bytesOfNat 8 v.toNat ++ bytesOfNat 8 (s.me.pc.get s.eng).toNat)
        let s := s.writeNum (a + 32 + 8 * e) 8 (n + 1)
        if x.replaying then s.writeNum (a + 64 + 8 * e) 8 (n + 1) else s

/-- An instruction of R396: in a replay its logged value is used again, else it acts and logs its value; then `use` takes
the value. -/
def State.logged (s : State) (act : State → Except Stop (Word × State)) (use : Word → State → Except Stop State) :
    Except Stop State :=
  match s.logNext with
  | .entry v s' => use v s'
  | .diverged => fail .divergence
  | .act =>
    match act s with
    | .ok (v, s') => use v (s'.logPut v)
    | .error e => .error e

end Sys2Proof.Machine
end

