-- ==== Sys2Proof/Machine/Load.lean ====
section
/-! DEFINITION. F instructions that bring data into the core: generator transfers, windows, scalar loads, the constant path,
bank copies, prefetch and fences (R135 to R158), but for the attention, Starter and Churn instructions and BWAIT. -/

namespace Sys2Proof.Machine

/-- The low field as the signed bit offset of R137. -/
def ofs18 (o : Fin 262144) : Int := signed 18 o.val

/-- The scalar address s[a] + OFS of w bits (R137). -/
def State.scalarAddr (s : State) (a : Reg) (o : Fin 262144) (w : Nat) : Except Stop Nat :=
  State.addrOk ((s.rd a).toNat + ofs18 o) w

/-! ### Elements of a generator (R141 to R143) -/

/-- One element: its address, none where its whole block is out of bounds (R147), and its place: a bank bit or a lane. -/
structure Elem1 where
  addr : Option Int
  place : Nat
  deriving DecidableEq, Repr

/-- The address of R141. -/
def Gen.addr (g : Gen) (disp c0 c1 c2 c3 : Int) : Int :=
  g.base + disp + c0 * g.strideAt 0 + c1 * g.strideAt 1 + c2 * g.strideAt 2 + c3 * g.strideAt 3

/-- The element lies outside LO to HI (R141). -/
def Gen.oob (g : Gen) (a : Option Int) : Bool :=
  match a with
  | none => true
  | some a => decide (a < g.lo) || decide ((g.hi : Int) < a + g.width)

/-- All elements in element order; element i at place `place i` (R141). -/
def Gen.elements (g : Gen) (disp : Int) (place : Nat → Nat) : List Elem1 :=
  let e0 := g.extAt 0
  let e1 := g.extAt 1
  let e2 := g.extAt 2
  (List.range (e0 * e1 * e2 * g.extAt 3)).map fun i =>
    ⟨some (g.addr disp (i % e0 : Nat) (i / e0 % e1 : Nat) (i / (e0 * e1) % e2 : Nat) (i / (e0 * e1 * e2) : Nat)), place i⟩

/-- The checks of R172, orders 4 to 6, on the elements of an instruction: addresses, pages, and access with port pages and routes (R142, R257,
R443). -/
def State.reachElems (s : State) (g : Gen) (n : Need) (es : List Elem1) : Except Stop (List (List Seg)) := do
  match es.find? fun e => match e.addr with | some a => decide (a < 0) || decide (((2 ^ 64 : Nat) : Int) < a + g.width) | none => false with
  | some e => fail .addrGen (wOfInt (e.addr.getD 0))
  | none => pure ()
  let gss ← s.resolve n ((es.filter fun e => !g.oob e.addr).map fun e => ((e.addr.getD 0).toNat, g.width))
  if n == .write then s.accessOk gss.flatten else s.routeOk gss.flatten
  .ok gss

/-- Order 7 of R172: an element out of bounds in fault mode (R142). -/
def Gen.inBounds (g : Gen) (es : List Elem1) : Except Stop Unit :=
  match es.find? fun e => g.oob e.addr with
  | some e => need (!g.fault) .bounds (wOfInt (e.addr.getD 0))
  | none => .ok ()

/-- Orders 4 to 7 of R172. -/
def State.checkElems (s : State) (g : Gen) (n : Need) (es : List Elem1) : Except Stop (List (List Seg)) := do
  let gss ← s.reachElems g n es
  g.inBounds es
  .ok gss

/-- Reads the elements in element order; one out of bounds reads 0. Every remote sector is asked for first: an access fault that its module
returns comes before a bounds fault (R24, R172). -/
def State.readElems (s : State) (g : Gen) (es : List Elem1) : Except Stop (List (Nat × Nat) × State) := do
  let gss ← s.reachElems g .read es
  let _ ← s.ask (gss.flatMap s.readAsks)
  g.inBounds es
  eachM (fun (acc : List (Nat × Nat) × State) (e : Elem1) =>
    if g.oob e.addr then .ok (acc.1 ++ [(e.place, 0)], acc.2)
    else match acc.2.load .read (e.addr.getD 0).toNat g.width with
      | .ok (v, s) => .ok (acc.1 ++ [(e.place, v)], s)
      | .error e => .error e) es ([], s)

/-- BCC of R143: waits of the beats of elements of w bits at bank bits. Beats of sixteen run on over all elements of an instruction, across
window rows and blocks (DESIGN CHOICE, log 13). -/
def bankWaits (w : Nat) (bits : List Nat) : Nat :=
  (groupsOf 16 bits).foldl (fun n beat =>
    let words := (beat.flatMap fun b => (List.range ((b + w - 1) / 32 - b / 32 + 1)).map (· + b / 32)).eraseDups
    let k := (List.range 16).foldl (fun m j => max m (words.filter fun x => x % 16 = j).length) 0
    n + (k - 1)) 0

/-- Adds waits to BCC of engine e's copy, which stops at 0xFFFF_FFFF (R65). -/
def Core.addBcc (c : Core) (e : Eng) (n : Nat) : Core := c.setC e 24 (wOf (min 4294967295 ((c.getC e 24).toNat + n)))

/-- Moves elements of memory into bank b at their bank bits (R145). -/
def State.toBank (s : State) (g : Gen) (b : Nat) (es : List Elem1) : Except Stop State := do
  let r ← s.readElems g es
  let s := r.1.foldl (fun (s : State) x => s.padWrite (2097152 * b + x.1) g.width x.2) r.2
  .ok (s.setMe (s.me.addBcc s.eng (bankWaits g.width (es.map Elem1.place))))

/-! ### Tensor transfers (R144 to R148) -/

/-- The elements of FLD and FST, with the range check of R145. -/
def State.flatElems (s : State) (x : MW) : Except Stop (Gen × List Elem1) := do
  let g := s.me.genAt x.b.val
  let o := x.ofs.val % 65536
  need (!g.unloaded) .layout
  need (decide (o * 32 + g.ext.foldl (· * ·) 1 * g.width ≤ 2097152)) .localRange
  .ok (g, g.elements (s.rd x.a).toInt fun i => o * 32 + i * g.width)

/-- The elements of FLDV and FSTV, each at its lane 64 c1 + c0 (R146). -/
def State.laneElems (s : State) (x : MW) : Except Stop (Gen × List Elem1) := do
  let g := s.me.genAt x.b.val
  need (!g.unloaded && decide (g.extAt 0 ≤ 64) && decide (g.extAt 1 ≤ 16) && g.extAt 2 == 1 && g.extAt 3 == 1 &&
    decide (g.width ≤ 32)) .layout
  .ok (g, g.elements (s.rd x.a).toInt fun i => 64 * (i / g.extAt 0) + i % g.extAt 0)

/-- The elements of FGATH and FSCAT: n blocks indexed by lanes of row 0 of v_a (R147). -/
def State.blockElems (s : State) (x : MW) : Except Stop (Gen × List Elem1) := do
  let g := s.me.genAt x.b.val
  let n := x.ofs.val % 64 + 1
  let kib := x.ofs.val / 64 % 256
  let e0 := g.extAt 0
  let e1 := g.extAt 1
  let per := e0 * e1 * g.extAt 2
  let size := (per * g.width + 31) / 32 * 32
  need (!g.unloaded) .layout
  need (decide (kib * 8192 + n * size ≤ 2097152)) .localRange
  let lanes := s.me.vrow s.eng x.a.val 0
  .ok (g, (List.range n).flatMap fun m =>
    let idx := signed 32 (lanes.getD m 0)
    let bad := decide (idx < 0) || decide ((g.extAt 3 : Int) ≤ idx)
    (List.range per).map fun i =>
      ⟨if bad then none else some (g.addr 0 (i % e0 : Nat) (i / e0 % e1 : Nat) (i / (e0 * e1) : Nat) idx),
        kib * 8192 + m * size + i * g.width⟩)

/-- FLD (R145). -/
def execFld (x : MW) (s : State) : Out1 := issue .f x.tk s fun s => do
  let r ← s.flatElems x
  s.toBank r.1 x.d.val r.2

/-- FLDV (R146): lanes outside the extents become 0. -/
def execFldv (x : MW) (s : State) : Out1 := issue .f x.tk s fun s => do
  let r ← s.laneElems x
  let g := r.1
  let v ← s.readElems g r.2
  let s := v.2
  let lane (k : Nat) : Nat := match v.1.find? fun y => y.1 = k with
    | some y => if x.sub.val % 2 = 1 then pattern 32 (signed g.width y.2) else y.2
    | none => 0
  .ok (s.setMe ((List.range 16).foldl (fun c i => c.setVrow .f x.d.val i ((List.range 64).map fun k => lane (64 * i + k))) s.me))

/-- FGATH (R147). -/
def execFgath (x : MW) (s : State) : Out1 := issue .f x.tk s fun s => do
  let r ← s.blockElems x
  s.toBank r.1 x.d.val r.2

/-- FLDW (R148): data images, or with S scale images, of n slabs. -/
def execFldw (x : MW) (s : State) : Out1 := issue .f x.tk s fun s => do
  let n := x.ofs.val % 1024 + 1
  let scale := x.ofs.val.testBit 10
  let j := (s.rd x.b).toNat
  let size := if scale then 1024 else 12288
  need (decide (j + n ≤ 1024)) .localRange (s.rd x.b)
  let a ← State.addrOk (s.rd x.a).toNat (8 * size * n)
  let r ← s.load .read a (8 * size * n)
  let bytes := bytesOfNat (size * n) r.1
  .ok ((List.range n).foldl (fun s t =>
    let xs := (bytes.drop (size * t)).take size
    let s := s.pullSlab (j + t)
    if scale then s.scaleWrite (j + t) xs else s.slabWrite (j + t) xs) r.2)

/-! ### Generators and windows (R140, R149 to R151) -/

/-- The limits of a layout record (R139, R140). -/
def layoutOk (x : Nat) : Bool :=
  field x 68 60 == 0 && ((List.range 4).all fun k => field x (176 + 64 * k) 16 == 0) &&
    ((List.range 4).all fun k => field x (416 + 64 * k) 32 == 0 && field x (384 + 64 * k) 32 != 0 &&
      decide (field x (384 + 64 * k) 32 ≤ 2147483648)) &&
    decide (field x 640 64 ≤ field x 704 64) && field x 768 256 == 0

/-- GSET (R140). -/
def execGset (x : MW) (s : State) : Out1 := issue .f x.tk s fun s => do
  let r ← State.loadRecord s (s.rd x.a) 1024 1024
  need (layoutOk r.1) .layout (s.rd x.a)
  .ok (r.2.setMe { r.2.me with gen := r.2.me.gen.splice 0 (128 * x.d.val) (bytesOfNat 128 r.1) })

/-- A window descriptor or image (R149). -/
structure Win where
  gen : Nat
  bank : Nat
  basew : Nat
  pitch : Nat
  slots : Nat
  row0 : Int
  head : Int
  deriving DecidableEq, Repr

def winOf (x : Nat) : Win where
  gen := field x 0 3
  bank := field x 8 4
  basew := field x 64 16
  pitch := field x 128 16
  slots := field x 192 9
  row0 := signed 64 (field x 256 64)
  head := signed 64 (field x 320 64)

/-- Reserved bits and values of a descriptor (R149, R150). -/
def windowOk (x : Nat) : Bool :=
  let w := winOf x
  field x 3 5 == 0 && field x 12 52 == 0 && field x 80 48 == 0 && field x 144 48 == 0 && field x 201 55 == 0 &&
    field x 384 128 == 0 && w.pitch != 0 && w.slots != 0 && decide (w.slots ≤ 256) &&
    decide (-2147483648 ≤ w.row0) && decide (w.row0 ≤ 2147483647) && decide (w.basew + w.slots * w.pitch ≤ 65536)

/-- Fetches rows first to first + k - 1 of a window into their slots (R149, R150). -/
def State.fetchRows (s : State) (w : Win) (first : Int) (k : Nat) : Except Stop State := do
  let g := s.me.genAt w.gen
  need (!g.unloaded && decide (g.extAt 0 * g.width ≤ 32 * w.pitch) && decide (first + k - 1 ≤ 2147483647)) .window
  s.toBank g w.bank ((List.range k).flatMap fun (t : Nat) =>
    let r := first + t
    let slot := ((r - w.row0) % (w.slots : Int)).toNat
    (List.range (g.extAt 0)).map fun i => ⟨some (g.addr 0 (i : Nat) r 0 0), 32 * (w.basew + slot * w.pitch) + i * g.width⟩)

/-- Sets HEAD of a window image. -/
def Core.setWin (c : Core) (j : Nat) (x : Nat) (head : Int) : Core :=
  { c with win := c.win.splice 0 (64 * j) (bytesOfNat 64 (setField x 320 64 (pattern 64 head))) }

/-- WSET (R150). -/
def execWset (x : MW) (s : State) : Out1 := issue .f x.tk s fun s => do
  let r ← State.loadRecord s (s.rd x.a) 512 512
  need (windowOk r.1) .window (s.rd x.a)
  let w := winOf r.1
  let s ← r.2.fetchRows w w.row0 w.slots
  .ok (s.setMe (s.me.setWin x.d.val r.1 w.row0))

/-- WADV (R151). -/
def execWadv (x : MW) (s : State) : Out1 := issue .f x.tk s fun s => do
  let image := natOfBytes (s.me.win.slice 0 (64 * x.d.val) 64)
  let w := winOf image
  let k := (s.rd x.a).toNat
  need (w.slots != 0 && decide (k ≤ w.slots)) .window (s.rd x.a)
  if k = 0 then .ok s
  else do
    let s ← s.fetchRows w (w.head + w.slots) k
    .ok (s.setMe (s.me.setWin x.d.val image (w.head + k)))

/-! ### Scalar loads and the constant path (R152, R153) -/

/-- LDS (R152). -/
def execLds (x : MS) (s : State) : Out1 := issue .f x.tk s fun s => do
  let w := x.wm1.val + 1
  let a ← s.scalarAddr x.a x.ofs w
  let r ← s.load .read a w
  .ok (r.2.result x.d (wOf r.1))

/-- First number of the error entries of the constant cache: word w of line l at 2^23 + 32 l + w (R405). -/
def kcacheErr (line w : Nat) : Nat := 8388608 + 32 * line + w

/-- One line, at a virtual bit address, through the constant cache: its bytes, and the cache with it most recently used (R153). A line
with an uncorrectable word is filled again (R405). A fill is a read: one of an object page comes from its highest copy (R289). -/
def State.cacheLine (s : State) (va line : Nat) : Except Stop (List Byte × State) :=
  let c := s.me
  let torn := s.edge.sramErr.any fun x => x.1 == s.cur && decide (kcacheErr line 0 ≤ x.2.1) && decide (x.2.1 < kcacheErr line 32)
  match if torn then none else assoc c.kcache line with
  | some bs => .ok (bs, s.setMe { c with kcache := (line, bs) :: c.kcache.filter fun x => x.1 != line })
  | none =>
    match s.readPages va 1024 [(line * 1024, 1024)] with
    | .ok (v, s) =>
      let bs := bytesOfNat 128 v
      let s := if torn then s.setEdge { s.edge with sramErr := s.edge.sramErr.filter fun x =>
          !(x.1 == s.cur && decide (kcacheErr line 0 ≤ x.2.1) && decide (x.2.1 < kcacheErr line 32)) } else s
      .ok (bs, s.setMe { s.me with kcache := (line, bs) :: (s.me.kcache.filter fun x => x.1 != line).take 511 })
    | .error e => .error e

/-- FLDK (R153): every line it touches comes through the cache. -/
def execFldk (x : MW) (s : State) : Out1 := issue .f x.tk s fun s => do
  let w := widthOf x.sub.val
  let a ← s.scalarAddr x.a x.ofs w
  let gss ← s.resolve .read [(a, w)]
  let gs := gss.headD []
  let s := s.cacheWalk a w
  let r ← eachM (fun (acc : List Nat × State) (y : (Nat × Nat) × Seg) =>
    let g := y.2
    match eachM (fun (acc : List Byte × State) k =>
        match acc.2.cacheLine (y.1.1 + 1024 * k - g.1) k with
        | .ok (bs, s) => .ok (acc.1 ++ bs, s)
        | .error e => .error e)
      ((List.range ((g.1 + g.2 - 1) / 1024 - g.1 / 1024 + 1)).map (· + g.1 / 1024)) ([], acc.2) with
    | .ok (bs, s) => .ok (acc.1 ++ [field (natOfBytes bs) (g.1 % 1024) g.2], s)
    | .error e => .error e) ((pagePieces a w).zip gs) ([], s)
  .ok (r.2.result x.d (wOf (joinSegs gs r.1)))

/-! ### Bank copy, prefetch, fence (R154, R156, R158) -/

/-- Bank b as an XCPY reads it: one that is issued again reads what its first issue has read (R407). -/
def Core.sourceOf (c : Core) (b : Nat) : Core :=
  match c.staged with
  | none => c
  | some bank => { c with pad := c.pad.overlay (262144 * b) 262144 (moved (262144 * b) bank) }

/-- The first n elements of a bank copy, and the flags they raise (R154). -/
def State.copyBank (s : State) (x : MW) (n : Nat) : State × Nat :=
  let v := s.rd x.b
  let i := wField v 0 21
  let j := wField v 21 21
  let c := s.me.sourceOf x.a.val
  let src := (List.range n).map fun k => c.decodeBank .f x.a.val (i + k)
  let fl := src.foldl (fun f y => f ||| y.2) 0
  if fmtScl (c.bfmt .f x.d.val) = 1 then
    ((groupsOf 32 (src.map (·.1))).zipIdx).foldl (fun (acc : State × Nat) (ts, b) =>
      let r := acc.1.encodeBlock .f x.d.val (j / 32 + b) ts
      (r.1, acc.2 ||| r.2)) (s, fl)
  else
    (src.zipIdx).foldl (fun (acc : State × Nat) (t, k) =>
      let r := acc.1.encodeBank .f x.d.val (j + k) t.1
      (r.1, acc.2 ||| r.2)) (s, fl)

/-- The elements of an XCPY lie in their banks, and whole blocks where the destination has them (R154). -/
def State.copyFits (s : State) (x : MW) : Bool :=
  let v := s.rd x.b
  let j := wField v 21 21
  let n := wField v 42 22
  let fd := s.me.bfmt .f x.d.val
  inBank (s.me.bfmt .f x.a.val) (wField v 0 21) n && inBank fd j n && (fmtScl fd != 1 || (j % 32 == 0 && n % 32 == 0))

/-- XCPY (R154). -/
def execXcpy (x : MW) (s : State) : Out1 := issue .f x.tk s fun s => do
  let n := wField (s.rd x.b) 42 22
  if n = 0 then .ok s
  else do
    need (s.copyFits x) .localRange (s.rd x.b)
    let r := s.copyBank x n
    let c := { r.1.me.raise .f r.2 with staged := none }
    .ok (r.1.setMe (if fmtRnd (s.me.bfmt .f x.d.val) = 2 then c.advance .f else c))

/-- Brings the lines of resolved bits into L2 (R156), as a read that clears pending rows and scrubs (R379, R402). For a remote window nothing is
sent, no route is checked, and the lines of its module stay as they are: R441 has no kind that asks for a prefetch (DESIGN CHOICE, log 14). -/
def State.touchSegs (s : State) (gs : List Seg) : State :=
  gs.foldl (fun s g =>
    let a := g.1 / 8
    let n := (g.1 % 8 + g.2 + 7) / 8
    if s.region a == .dram || s.region a == .flash then (s.tookOwn a n).setMemory ((s.tookOwn a n).memory.touch a n) else s) s

/-- PREF (R156). -/
def execPref (x : MW) (s : State) : Out1 := issue .f x.tk s fun s => do
  let n := (s.rd x.b).toNat
  if n = 0 then .ok s
  else do
    let a ← State.addrOk (s.rd x.a).toNat n
    let gss ← s.resolve .read [(a, n)]
    .ok (s.touchSegs (gss.headD []))

/-- A barrier reference word without reserved bits and with ACC inside the domain (R159). -/
def State.refOk (s : State) (r : Word) : Except Stop Unit :=
  if wField r 32 32 = 0 ∧ wField r 23 9 < wField (s.rootCsr 593) 0 9 then .ok () else fail .barrierRef 0 0 r

/-- The arrival pair of R134: reference and phase. -/
def State.pairOf (s : State) (d : Reg) : Word × Word := (s.rd d, s.rd (Fin.ofNat 32 (d.val + 1)))

/-- PREF.arr (R156): retires when the request is queued; the completion is the event PREFETCH_ARRIVAL. -/
def execPrefArr (x : MW) (s : State) : Out1 := issue .f x.tk s fun s => do
  let (r, q) := s.pairOf x.d
  s.refOk r
  let _ ← State.addrOk (s.rd x.a).toNat (s.rd x.b).toNat
  .ok (({ s with movers := { s.movers with
    prefetches := s.movers.prefetches ++ [⟨s.me.mode, s.me.part, s.rd x.a, s.rd x.b, r, q⟩] } } : State).push .prefetchArrival)

/-- K of a fence: bit 1 of the joined field of word 0, which is sub[1] (R158). -/
def constantBit (x : MW) : Bool := x.sub.val.testBit 1

/-- FENCE.F (R112, R158): every earlier access has performed when an engine issues its next instruction, so the fence
retires at once; with K it empties the constant cache. -/
def execFenceF (x : MW) (s : State) : Out1 := issue .f x.tk s fun s =>
  .ok (if constantBit x then s.setMe { s.me with kcache := [] } else s)

end Sys2Proof.Machine
end

