-- ==== Sys2Proof/Machine/Barrier.lean ====
section
/-! DEFINITION. Memory-backed barriers at their home slices: records, arrivals, waits, completion arrivals, and BINI, BARR and
BWAIT (R122 to R125, R134, R159 to R161). -/

namespace Sys2Proof.Machine

/-- Answers a request from outside the cores: a Berast flit, an ESANS or a message of a flash link (R441, R447, R451). -/
def State.answerTo (s : State) (who : Asker) (kind : Nat) (payload : List Byte) : State :=
  match who with
  | .core _ | .completion => s
  | .berast x =>
    s.send { x with
      kind := BitVec.ofNat 8 kind, vc := 1, dst := x.src, src := BitVec.ofNat 21 (s.rootCsr 592).toNat, rsv := 0
      payload := payload ++ List.replicate (112 - payload.length) 0 }
  | .oszin k x =>
    s.emit (.oszin k { x with
      kind := 24, rsv := 0, slots := payload.take 40 ++ List.replicate (40 - payload.length) 0
      field := BitVec.ofNat 8 kind :: ((payload.drop 40).take 15 ++ List.replicate (15 - (payload.length - 40)) 0) })
  | .flash x => s.emit (.flash x.engine.val kind x.flit.tag payload)

/-- Byte address of barrier `num` of a partition (R160). -/
def barrierAt (p num : Nat) : Nat := barrierBase + p * 268435456 + 64 * num

def State.barN (s : State) (a : Nat) : Nat := s.numAt a 8
def State.barC (s : State) (a : Nat) : Nat := s.numAt (a + 8) 2
def State.barCount (s : State) (a q : Nat) : Nat := s.numAt (a + 16 + 4 * (q % 4)) 4

/-- A waiting BARR of core k has been counted, and so retires: its result is logged (R123, R396). -/
def State.retireBarr (s : State) (k : CoreId) : State :=
  match (s.core k).wBar with
  | .waiting _ _ tk =>
    let t := { s with cur := k, eng := Eng.w }
    let t := ((t.setMe (t.me.hear .w)).logPut 0).retire .w tk
    { t with cur := s.cur, eng := s.eng }
  | _ => s

/-- The home slice discards a waiting BARR of core k, which takes a barrier-phase fault (R122). -/
def State.faultBarr (s : State) (k : CoreId) (q ref : Word) : State :=
  match (s.core k).wBar with
  | .waiting _ _ _ => s.takeFault k .w (mkTrap .barrierPhase 0 q ref)
  | _ => s

/-- The status word of a wait: a core's F finds it at its next issue, other askers are sent it. -/
def State.inform (s : State) (who : Asker) (v : Word) : State :=
  match who with
  | .core k => s.setCore k { s.core k with fBar := .answered v }
  | .completion => s
  | x => s.answerTo x 36 (bytesOfNat 8 v.toNat)

/-- A waiting arrival has been counted (R123). -/
def State.counted (s : State) (who : Asker) : State :=
  match who with
  | .core k => s.retireBarr k
  | .completion => s
  | x => s.answerTo x 36 (bytesOfNat 8 0)

/-- Answers the waits for a phase of the barrier at `a` (R124). -/
def State.answerWaits (s : State) (a : Nat) (which : Word → Bool) (v : Word) : State :=
  let s := s.cores.foldl (fun s (x : Nat × Core) =>
    match x.2.fBar with
    | .waiting b q _ => if b = a && which q then s.inform (.core x.1) v else s
    | _ => s) s
  let mine := s.memory.waits.filter fun w => w.1 == a && which w.2.1
  let s := s.setMemory { s.memory with waits := s.memory.waits.filter fun w => !(w.1 == a && which w.2.1) }
  mine.foldl (fun s w => s.inform w.2.2 v) s

/-- Completes the oldest open phase of the barrier at `a`, if its count has reached c (R122). -/
def State.completePhase (s : State) (a : Nat) : State :=
  let n := s.barN a
  let c := s.barC a
  if c = 0 || s.barCount a n < c then s
  else
    let k := n % 4
    let st := s.numAt (a + 32 + 4 * k) 4
    let s := s.writeNum (a + 48 + 4 * k) 4 st
    let s := s.writeNum (a + 16 + 4 * k) 4 0
    let s := s.writeNum (a + 32 + 4 * k) 4 0
    let s := s.writeNum a 8 (n + 1)
    s.answerWaits a (fun q => q == wOf n) (wOf st)

/-- What the home slice makes of an arrival (R123). -/
inductive Taken where
  | counted (s : State)
  | refused
  | waits
  /-- a sector of the record is uncorrectable (R404) -/
  | unreadable
  deriving DecidableEq, Repr

def State.countArrival (s : State) (a : Nat) (q st : Word) : Taken :=
  let n := s.barN a
  if s.badSector a 64 then .unreadable
  else if s.barC a = 0 || q.toNat < n then .refused
  else if n + 4 ≤ q.toNat then .waits
  else if s.barC a ≤ s.barCount a q.toNat then .refused
  else
    let k := q.toNat % 4
    let s := s.writeNum (a + 16 + 4 * k) 4 (s.barCount a q.toNat + 1)
    .counted (s.writeNum (a + 32 + 4 * k) 4 (s.numAt (a + 32 + 4 * k) 4 ||| st.toNat % 2147483648))

/-- A refused arrival: its BARR takes a barrier-phase fault; a completion arrival goes to a record (R122, R134). -/
def State.refuse (s : State) (x : Arrival) : State :=
  match x.who with
  | .completion => s.partRecord x.part 3 x.ref.toNat x.phase.toNat x.status.toNat
  | .core k => s.faultBarr k x.phase x.ref
  | w => s.answerTo w 36 (bytesOfNat 8 4294967296)

/-- Completes phases and lets waiting arrivals proceed, as often as there are any (R122, R123). Of several that may proceed, the one that
has waited longest goes first (DESIGN CHOICE, log 13). -/
def State.settleBarrier (a : Nat) : Nat → State → State
  | 0, s => s
  | fuel + 1, s =>
    let s := (List.range 4).foldl (fun s _ => s.completePhase a) s
    match s.memory.arrivals.find? fun x => x.rcd == a && decide (x.phase.toNat < s.barN a + 4) with
    | none => s
    | some x =>
      let s := s.setMemory { s.memory with arrivals := s.memory.arrivals.erase x }
      match s.countArrival a x.phase x.status with
      | .counted s => State.settleBarrier a fuel (s.counted x.who)
      | _ => State.settleBarrier a fuel (s.refuse x)

/-- An arrival reaches the home slice: it is counted, refused, or made to wait (R123). -/
def State.arrive (s : State) (x : Arrival) : Taken :=
  match s.countArrival x.rcd x.phase x.status with
  | .counted s => .counted (State.settleBarrier x.rcd (s.memory.arrivals.length + 1) s)
  | r => r

/-- An arrival at a record that cannot be read: a request over a link is answered with an error, a completion arrival is refused (R404; DESIGN
CHOICE, log 12). -/
def State.spurn (s : State) (x : Arrival) : State :=
  match x.who with
  | .completion | .core _ => s.refuse x
  | w => s.answerTo w 62 [1]

/-- An arrival that belongs to no waiting instruction (R123, R134). -/
def State.deposit (s : State) (x : Arrival) : State :=
  let s := s.tookOwn x.rcd 64
  match s.arrive x with
  | .counted s => s.counted x.who
  | .refused => s.refuse x
  | .unreadable => s.spurn x
  | .waits => s.setMemory { s.memory with arrivals := s.memory.arrivals ++ [x] }

/-- BINI at the home slice: every request it holds on the barrier ends first (R122). -/
def State.initBarrier (s : State) (a c : Nat) : State :=
  let held := s.memory.arrivals.filter fun x => x.rcd == a
  let s := s.setMemory { s.memory with arrivals := s.memory.arrivals.filter fun x => x.rcd != a }
  let s := held.foldl State.refuse s
  let s := s.answerWaits a (fun _ => true) 3221225472
  s.writeBytes a (bytesOfNat 64 (c * 2 ^ 64))

/-- What a BWAIT finds at the home slice: its status word, or that it must wait (R124). -/
def State.waitStatus (s : State) (a : Nat) (q : Word) : Option Word :=
  let n := s.barN a
  if s.barC a = 0 then some 2684354560
  else if q.toNat + 4 < n then some 2147483648
  else if q.toNat < n then some (wOf (s.numAt (a + 48 + 4 * (q.toNat % 4)) 4))
  else none

/-- Where a barrier reference leads: a record of this module, or a module of the domain and a number (R159). -/
inductive BarRef where
  | here (a : Nat)
  | away (acc num : Nat)
  deriving DecidableEq, Repr

def State.barRef (s : State) (r : Word) : BarRef :=
  if r.getLsbD 22 && wField r 23 9 != wField (s.rootCsr 592) 0 9 then .away (wField r 23 9) (wField r 0 22)
  else .here (barrierAt s.me.part (wField r 0 22))

/-- The BAR flit of a barrier instruction: operation 0 BINI, 1 BARR, 2 BWAIT, number and operand (R441; log 14). -/
def State.barFlit (s : State) (acc op num : Nat) (v : Word) : Flit :=
  s.flit s.me.part 4 acc 0 (bytesOfNat 8 op ++ bytesOfNat 8 num ++ bytesOfNat 8 v.toNat)

/-- Sends a BAR flit and awaits its status word; a word of 2^32 tells a barrier-phase fault, and one of 2^33 that an arrival made
before a pre-emption or fault was withdrawn uncounted, so that a new one is made (R123; log 14). -/
def State.askBarrier (s : State) (acc op num : Nat) (v : Word) (ref : Word) : Except Stop (Word × State) :=
  match s.ask [s.barFlit acc op num v] with
  | .error e => .error e
  | .ok ps =>
    let w := natOfBytes ((ps.headD []).take 8)
    if w = 4294967296 then fail .barrierPhase 0 v ref
    else if w = 8589934592 then
      let s := s.setEdge { s.edge with asks := s.edge.asks.filter fun a => !(a.core == s.cur && a.eng == s.eng) }
      match s.ask [s.barFlit acc op num v] with
      | .error e => .error e
      | .ok _ => .error (.wait s)
    else .ok (wOf w, s)

/-- A completion arrival of a command (R134). One at another module's barrier awaits its answer; where no port leads there it is refused. -/
def State.complete (s : State) (p : Nat) (ref phase : Word) (status : Nat) : State :=
  let acc := wField ref 23 9
  if ref.getLsbD 22 && acc != wField (s.rootCsr 592) 0 9 then
    let x := s.flit p 4 acc 0
      (bytesOfNat 8 (1 + status % 2147483648 * 256) ++ bytesOfNat 8 (wField ref 0 22) ++ bytesOfNat 8 phase.toNat)
    if !s.routed acc then s.partRecord p 3 ref.toNat phase.toNat status
    else
      let port := s.portFor acc 0
      let s := s.send x
      s.setEdge { s.edge with remotes := s.edge.remotes ++ [⟨x, port, p, ref, phase, status⟩] }
  else s.deposit ⟨barrierAt p (wField ref 0 22), phase, wOf status, p, ref, .completion⟩

/-- BINI (R122, R161). -/
def execBini (x : MW) (s : State) : Out1 := issue .w x.tk s fun s => do
  let r := s.rd x.d
  let c := (s.rd x.a).toNat
  s.refOk r
  if c = 0 ∨ 65535 < c then fail .barrierValue 0 (s.rd x.a) r
  else match s.barRef r with
    | .here a => .ok (s.clearRpl.initBarrier a c)
    | .away acc num => do
      let y ← s.askBarrier acc 0 num (s.rd x.a) r
      .ok y.2.clearRpl

/-- BARR (R123, R161): waits while its phase is too far, and is logged (R396). A record that cannot be read gives a sector-code fault (R404). -/
def execBarr (x : MW) (s : State) : Out1 := issue .w x.tk s fun s => do
  let r := s.rd x.d
  let q := s.rd x.a
  s.refOk r
  s.logged (fun s =>
    match s.barRef r with
    | .away acc num => s.askBarrier acc 1 num q r
    | .here a =>
      match s.me.wBar with
      | .waiting _ _ _ => .error (.wait s)
      | _ =>
        let s := s.tookOwn a 64
        let y : Arrival := ⟨a, q, 0, s.me.part, r, .core s.cur⟩
        match s.arrive y with
        | .counted s => .ok (0, s)
        | .unreadable => fail .sectorCode (wOf (8 * a))
        | .refused => fail .barrierPhase 0 q r
        | .waits =>
          let s := s.setMemory { s.memory with arrivals := s.memory.arrivals ++ [y] }
          .error (.wait (s.setMe { s.me with wBar := .waiting a q x.tk })))
    fun _ s => .ok s

/-- BWAIT (R124, R161): s[d] receives the status word, which is logged (R396). A record that cannot be read gives a sector-code fault (R404). -/
def execBwait (x : MW) (s : State) : Out1 := issue .f x.tk s fun s => do
  let r := s.rd x.a
  let q := s.rd x.b
  s.refOk r
  s.logged (fun s =>
    match s.barRef r with
    | .away acc num => s.askBarrier acc 2 num q r
    | .here a =>
      match s.me.fBar with
      | .answered v => .ok (v, s)
      | .waiting _ _ _ => .error (.wait s)
      | _ =>
        let s := s.tookOwn a 64
        if s.badSector a 64 then fail .sectorCode (wOf (8 * a))
        else match s.waitStatus a q with
        | some v => .ok (v, s)
        | none => .error (.wait (s.setMe { s.me with fBar := .waiting a q x.tk })))
    fun v s => .ok (s.result x.d v)

end Sys2Proof.Machine
end

