-- ==== Sys2Proof/Machine/Store.lean ====
section
/-! DEFINITION. W instructions: stores, appends to launch queues, atomics, shadow regions, queued commands, invalidation and
the row commands of the DRAM stacks (R126 to R131, R144 to R170, R258, R456). -/

namespace Sys2Proof.Machine

/-! ### Generator stores (R142, R144 to R147, R258) -/

/-- A whole append (R258): the port's partition and queue and its eight words, where the segments cover exactly the 64
bytes of one append port. -/
def State.appendOf (s : State) (gs : List (Seg × Nat)) : Option (Nat × Nat × List Word) :=
  match gs with
  | [] => none
  | (g0, _) :: _ =>
    match s.portPage (g0.1 / 8) with
    | none => none
    | some (p, o) =>
      let q := o / 64
      let base := ((s.rootCsr (544 + p)).toNat + 64 * q) * 8
      let within := gs.all fun x => decide (base ≤ x.1.1) && decide (x.1.1 + x.1.2 ≤ base + 512)
      let total := gs.foldl (fun n x => n + x.1.2) 0
      let cover := gs.foldl (fun m x => m ||| ((2 ^ x.1.2 - 1) * 2 ^ (x.1.1 - base))) 0
      if o < 4096 && within && total == 512 && cover == 2 ^ 512 - 1 then
        let v := gs.foldl (fun m x => m ||| (x.2 % 2 ^ x.1.2) * 2 ^ (x.1.1 - base)) 0
        some (p, q, (unpack 64 8 v).map wOf)
      else none

/-- Stores elements in element order, so that the later one wins; one out of bounds is dropped. With `port`, a store that is one whole
append goes to the launch scheduler instead (R258). `value` gives an element's bits. -/
def State.writeElems (s : State) (g : Gen) (es : List Elem1) (port : Bool) (value : Nat → Nat) : Except Stop State := do
  let gss ← s.checkElems g .write es
  let inside := es.filter fun e => !g.oob e.addr
  let ws := (inside.zip gss).flatMap fun x => cutOver x.2 (value x.1.place)
  match if port then s.appendOf ws else none with
  | some (p, q, r) => .ok (s.clearRpl.appendRecord p q r)
  | none => (inside.foldl (fun s e => s.cacheWalk (e.addr.getD 0).toNat g.width) s).writeAll ws

/-- A store from bank b by W: its elements, and BCC (R143). -/
def State.fromBank (s : State) (g : Gen) (b : Nat) (es : List Elem1) (port : Bool) : Except Stop State := do
  let s ← s.writeElems g es port fun bit => s.me.bankBits b bit g.width
  .ok (s.setMe (s.me.addBcc s.eng (bankWaits g.width (es.map Elem1.place))))

/-- FST (R145, R258). -/
def execFst (x : MW) (s : State) : Out1 := issue .w x.tk s fun s => do
  let r ← s.flatElems x
  s.fromBank r.1 x.d.val r.2 true

/-- FSTV: the low w bits of each lane within the extents (R146, R258). -/
def execFstv (x : MW) (s : State) : Out1 := issue .w x.tk s fun s => do
  let r ← s.laneElems x
  let j := s.me.phys .w x.d.val
  s.writeElems r.1 r.2 true fun k => (s.me.vreg.get 0 (1024 * j + k)).toNat % 2 ^ r.1.width

/-- FSCAT (R147): it is no append (R258). -/
def execFscat (x : MW) (s : State) : Out1 := issue .w x.tk s fun s => do
  let r ← s.blockElems x
  s.fromBank r.1 x.d.val r.2 false

/-- STS (R152). -/
def execSts (x : MS) (s : State) : Out1 := issue .w x.tk s fun s => do
  let w := x.wm1.val + 1
  let a ← s.scalarAddr x.a x.ofs w
  s.store a w ((s.rd x.d).toNat % 2 ^ w)

/-! ### Atomics (R118, R155) -/

/-- The new value of an ATOM on w bits. -/
def atomNew (op w old b cmp : Nat) : Nat :=
  match op with
  | 0 => (old + b) % 2 ^ w
  | 1 => old &&& b
  | 2 => old ||| b
  | 3 => old ^^^ b
  | 4 => if signed w b < signed w old then b else old
  | 5 => if signed w old < signed w b then b else old
  | 6 => min old b
  | 7 => max old b
  | 8 => b
  | _ => if old = cmp then b else old

/-- The payload of an ATOM flit: operation, width code, bit within the sector, operand and comparand (R441; log 14). -/
def atomPayload (op wc bit b cmp : Nat) : List Byte :=
  bytesOfNat 1 op ++ bytesOfNat 1 wc ++ bytesOfNat 1 bit ++ List.replicate 5 0 ++ bytesOfNat 8 b ++ bytesOfNat 8 cmp

/-- ATOM (R155). One into an open shadow region reads the published value and is logged (R127, R396). -/
def execAtom (x : MW) (s : State) : Out1 := issue .w x.tk s fun s => do
  let op := x.ofs.val % 16
  let wc := x.ofs.val / 16 % 8
  let w := widthOf wc
  let b := (s.rd x.b).toNat % 2 ^ w
  let cmp := (s.rd x.d).toNat % 2 ^ w
  need ((s.rd x.a).toNat % w == 0) .alignment (s.rd x.a)
  let a ← State.addrOk (s.rd x.a).toNat w
  let gss ← s.resolve .both [(a, w)]
  let gs := gss.headD []
  let g := gs.headD (0, 0)
  if isRemote s g then do
    let ps ← s.ask [s.flit s.me.part 3 (accOf (g.1 / 8)) (g.1 / 128 * 16 % 1099511627776) (atomPayload op wc (g.1 % 128) b cmp)]
    .ok (s.clearRpl.result x.d (wOf (natOfBytes ((ps.headD []).take 8))))
  else
    let act (s : State) : Except Stop (Word × State) :=
      match s.readSegs gs with
      | .error e => .error e
      | .ok (old, s) =>
        match s.writeSegs gs (atomNew op w old b cmp) with
        | .error e => .error e
        | .ok s => .ok (wOf old, s)
    if (s.shadowAt (g.1 / 8)).isSome then s.logged act fun v s => .ok (s.result x.d v)
    else match act s with
      | .ok (v, s) => .ok (s.result x.d v)
      | .error e => .error e

/-! ### Invalidation and fence (R157, R158) -/

/-- Removes lines from L2, their dirty sectors written back or discarded (R157, R170). -/
def Memory.dropLines (m : Memory) (ls : List Nat) : Memory :=
  { m with lines := m.lines.filter fun l => !ls.contains l, dirty := m.dirty.filter fun k => !ls.contains (k / 8) }

/-- The lines that resolved bits touch. -/
def linesOf (gs : List Seg) : List Nat :=
  gs.flatMap fun g => if g.2 = 0 then [] else (List.range ((g.1 + g.2 - 1) / 1024 - g.1 / 1024 + 1)).map (· + g.1 / 1024)

/-- INVL (R157). For a remote window nothing is sent, no route is checked, and it retires at once: R441 has no kind that carries an invalidation
(DESIGN CHOICE, log 14). -/
def execInvl (x : MW) (s : State) : Out1 := issue .w x.tk s fun s => do
  let n := (s.rd x.b).toNat
  if n = 0 then .ok s
  else do
    let a ← State.addrOk (s.rd x.a).toNat n
    let gss ← s.resolve .read [(a, n)]
    let gs := gss.headD []
    let s := s.setMemory (s.memory.dropLines (linesOf gs))
    .ok (if gs.all s.inOwnShadow then s else s.clearRpl)

/-- FENCE.W (R112, R158): every earlier access has performed, so the fence retires at once. -/
def execFenceW (x : MW) (s : State) : Out1 := issue .w x.tk s fun s => .ok s

/-! ### Shadow regions (R126 to R129, R162, R163) -/

/-- The launch of the running core. -/
def State.launchId (s : State) : LaunchId := match s.taskOf s.cur with | some (_, x, _) => x.launch | none => 0

/-- PUBLICATION of a region: its shadow sectors become its contents, and it is closed (R128). -/
def State.publish (s : State) (r : Shadow) : State :=
  let mine (k : Nat) : Bool := r.ranges.any fun g => decide (g.1 ≤ 16 * k) && decide (16 * k < g.1 + g.2)
  let sectors := s.memory.shadowData.filter fun x => mine x.1
  let s := s.setMemory { s.memory with
    shadows := s.memory.shadows.erase r
    shadowData := s.memory.shadowData.filter fun x => !mine x.1 }
  sectors.foldl (fun s x => s.writeBytes (16 * x.1) (bytesOfNat 16 (x.2 % 2 ^ 128))) s

/-- A region is closed without publishing, and its shadow copies are discarded (R128). -/
def State.discardShadow (s : State) (r : Shadow) : State :=
  let mine (k : Nat) : Bool := r.ranges.any fun g => decide (g.1 ≤ 16 * k) && decide (16 * k < g.1 + g.2)
  s.setMemory { s.memory with
    shadows := s.memory.shadows.erase r
    shadowData := s.memory.shadowData.filter fun x => !mine x.1 }

/-- SHAD (R162), logged (R396). -/
def execShad (x : MW) (s : State) : Out1 := issue .w x.tk s fun s => do
  let a := (s.rd x.a).toNat
  let n := (s.rd x.b).toNat
  need (a % 128 == 0 && n % 128 == 0) .alignment (s.rd x.a)
  s.logged (fun s => do
    let _ ← State.addrOk a n
    let gss ← s.resolve .none [(a, n)]
    let gs := gss.headD []
    let ranges := gs.map fun g => (g.1 / 8, g.2 / 8)
    let open_ := s.memory.shadows
    need (n != 0 && decide (n ≤ 68719476736)) .shadow (s.rd x.a)
    need (gs.all fun g => s.ownsDram s.me.part (g.1 / 8)) .shadow (s.rd x.a)
    need (!(open_.any fun r => r.ranges.any fun u => ranges.any fun v =>
      decide (u.1 < v.1 + v.2) && decide (v.1 < u.1 + u.2))) .shadow (s.rd x.a)
    need (decide ((open_.filter fun r => r.launch == s.launchId).length < 64)) .shadow (s.rd x.a)
    .ok (0, s.setMemory { s.memory with shadows := open_ ++ [⟨s.launchId, s.me.part, wOf a, n, ranges⟩] }))
    fun _ s => .ok s

/-- PUBL (R163): the writes of the task issued before it have been taken into the shadow. Its address needs a valid translation and no
permission (R368), which comes before the check of the region (R172). -/
def execPubl (x : MW) (s : State) : Out1 := issue .w x.tk s fun s => do
  let _ ← s.resolve .none [((s.rd x.a).toNat, 1)]
  match s.memory.shadows.find? fun r => r.launch == s.launchId && r.base == s.rd x.a with
  | none => fail .shadow (s.rd x.a)
  | some r => .ok (s.publish r).clearRpl

/-! ### Commands of the communication step (R131, R164 to R166) -/

/-- Queues a command of the running task; the 1,025th of a superstep is refused (R166). -/
def State.queueCmd (s : State) (notBefore : Nat) (w : Work) : Except Stop State :=
  match s.taskOf s.cur with
  | none => .ok s
  | some (t, x, l) =>
    if 1024 ≤ x.cmdPos then fail .commQueue
    else .ok ((s.setLaunch x.launch { l with cmds := l.cmds ++ [⟨notBefore, x.role, x.cmdPos, w⟩] }).setTask t
      { x with cmdPos := x.cmdPos + 1 })

/-- Roles of the running task's group (R19). -/
def State.groupSize (s : State) : Nat := match s.taskOf s.cur with | some (_, _, l) => l.n | none => 0
def State.role (s : State) : Nat := match s.taskOf s.cur with | some (_, x, _) => x.role | none => 0

/-- COPY (R164). Of the checks of order 8 the append fault of a port comes before communication-queue: the table of R172 does not rank them
(DESIGN CHOICE, log 13). -/
def execCopy (x : MW) (s : State) : Out1 := issue .w x.tk s fun s => do
  let src := s.rd x.a
  let dst := s.rd x.d
  let n := wField (s.rd x.b) 0 40
  let local_ := x.sub.val.testBit 0
  let kind := x.sub.val / 2
  let role := wField dst 32 8
  let ofs := if kind = 1 then wField dst 0 25 else wField dst 0 27
  need (!local_ || (wField src 25 39 == 0 && decide (src.toNat + n ≤ Config.padBits))) .localRange src
  need (match kind with
    | 0 => true
    | 1 => wField dst 25 7 == 0 && wField dst 40 24 == 0 && decide (ofs + n ≤ Config.padBits)
    | _ => wField dst 27 5 == 0 && wField dst 40 24 == 0 && decide (ofs + n ≤ Config.wstBits)) .localRange dst
  need (kind == 0 || decide (role < s.groupSize)) .role (wOf role)
  let _ ← if local_ then .ok 0 else State.addrOk src.toNat n
  let _ ← if kind = 0 then State.addrOk dst.toNat n else .ok 0
  let gss ← s.resolveNeeds s.me.mode s.me.part
    [(.read, src.toNat, if local_ then 0 else n), (.write, dst.toNat, if kind = 0 then n else 0)]
  let into := gss.getD 1 []
  s.portAccess into
  s.portFault into
  let work : Work := .copy (if local_ then .pad s.role src.toNat else .mem src.toNat (gss.headD []))
    (match kind with | 0 => .mem dst.toNat into | 1 => .pad role ofs | _ => .wst role ofs) n
  if n = 0 then .ok s else s.queueCmd (16 * wField (s.rd x.b) 40 24) work

/-- The fields of a window record (R165); the table follows separately. -/
def recordOk (x : Nat) : Bool :=
  field x 68 4 == 0 && field x 89 39 == 0 && field x 202 54 == 0 && field x 256 256 == 0 && field x 0 64 % 32 == 0 &&
    field x 128 64 % 16 == 0

/-- The listings of a window's table, as read at its first RED of a superstep (R165). -/
def State.redTable (s : State) (tbl count : Nat) : Except Stop (List Nat × State) := do
  let a ← State.addrOk tbl (16 * count)
  let r ← s.load .read a (16 * count)
  .ok (unpack 16 count r.1, r.2)

/-- The window of a RED and the segments of its dest. At the first RED of a superstep its home slice reads the record and the table, later
ones use that copy; every RED translates record, table and dest. A later check of R172 waits on what it needs to have read (R165). -/
def State.redWindow (s : State) (x : MW) : Except Stop (RedWin × List Seg × State) := do
  let a := (s.rd x.a).toNat
  let v := s.rd x.b
  let wins := match s.taskOf s.cur with | some (_, _, l) => l.wins | none => []
  let places (w : RedWin) (count : Nat) : Except Stop (List Seg) := do
    let d ← State.addrOk w.base (w.n * w.ty.width)
    let _ ← State.addrOk w.tbl (16 * count)
    let gss ← s.resolveNeeds s.me.mode s.me.part [(.read, a, 512), (.read, w.tbl, 16 * count), (.write, d, w.n * w.ty.width)]
    .ok (gss.getD 2 [])
  let fits (w : RedWin) : Bool := decide (wField v 0 16 * 32 + w.n * w.ty.width ≤ 2097152)
  match wins.find? fun w => w.rcd = a with
  | some w => do
    need (fits w) .localRange v
    let gs ← places w w.table.length
    .ok (w, gs, s.cacheWalk w.base (w.n * w.ty.width))
  | none => do
    let r ← s.load .read a 512
    let y := r.1
    let w : RedWin := ⟨a, field y 0 64, field y 72 16 + 1, Ty.ofCode (field y 64 4), y.testBit 88, field y 128 64, [], [], []⟩
    let count := field y 192 10 + 1
    need (fits w) .localRange v
    need (recordOk y) .layout (s.rd x.a)
    match r.2.redTable w.tbl count with
    | .error (.trap f) => do
      let _ ← places w count
      .error (.trap f)
    | .error e => .error e
    | .ok (entries, s) => do
      need (entries.all fun e => decide (e < 256)) .layout (s.rd x.a)
      let gs ← places w count
      .ok ({ w with table := entries }, gs, s.cacheWalk w.base (w.n * w.ty.width))

/-- RED (R165): the contribution is captured now. Of the checks of order 8 the append fault of a port comes first, then reduction-slot, then
communication-queue: the table of R172 does not rank them (DESIGN CHOICE, log 13). -/
def execRed (x : MW) (s : State) : Out1 := issue .w x.tk s fun s => do
  let a := (s.rd x.a).toNat
  let v := s.rd x.b
  let t := Ty.ofCode (x.ofs.val % 16)
  need (a % 512 == 0) .alignment (s.rd x.a)
  need (wField v 16 48 == 0) .localRange v
  let (win, dest, s) ← s.redWindow x
  s.portAccess dest
  s.portFault dest
  let before := (win.got.filter fun g => g.1 = s.role).length
  need (decide (before < (win.table.filter (· == s.role)).length) && t == win.ty) .redSlot (s.rd x.a)
  let data := (List.range win.n).map fun k => s.me.bankBits x.d.val (wField v 0 16 * 32 + k * t.width) t.width
  let s ← s.queueCmd 0 (.red a)
  match s.taskOf s.cur with
  | none => .ok s
  | some (_, y, l) =>
    let win := { win with dest := dest, got := win.got ++ [(y.role, data)] }
    .ok (s.setLaunch y.launch { l with wins := (l.wins.filter fun w => w.rcd != a) ++ [win] })

/-! ### Row commands (R167 to R170, R456) -/

/-- The physical byte addresses of virtual bit addresses, and whether each lies in the partition's DRAM. -/
def State.rowAddrs (s : State) (rs : List (Need × Word)) : Except Stop (List (Nat × Bool)) := do
  let gss ← s.resolveNeeds s.me.mode s.me.part (rs.map fun r => (r.1, r.2.toNat, 1))
  .ok (gss.map fun gs => let a := (gs.headD (0, 0)).1 / 8; (a, s.ownsDram s.me.part a))

def State.group (s : State) : Option Group := match s.taskOf s.cur with | some (_, x, _) => x.group | none => none

/-- The stack of a row key (R138). -/
def rowStack (key : Nat) : Nat := rowSlice key / 16

/-- A stack is disabled or lost (R448, R449). -/
def State.stackGone (s : State) (k : Nat) : Bool := s.edge.stacksOff.contains k || s.edge.stacksLost.contains k

/-- A virtual bit address leads to a stack that is disabled or lost, also through the window with the module's own index (R24). -/
def State.leadsToGone (s : State) (va : Nat) : Bool :=
  match s.pageOf s.me.mode s.me.part (va / 524288) .none with
  | .ok base =>
    let a := base + va % 524288 / 8
    let own := match s.region a, s.remoteTarget a with
      | .dram, _ => some a
      | .remote, .ok none => some (a % 1099511627776)
      | _, _ => none
    match own with
    | some b => decide (b < s.dramBytes) && s.stackGone (sliceOf b / 16)
    | none => false
  | .error _ => false

/-- MGRP (R167). -/
def execMgrp (x : MW) (s : State) : Out1 := issue .w x.tk s fun s => do
  need (!s.leadsToGone (s.rd x.a).toNat) .group (s.rd x.a)
  let r ← s.rowAddrs [(.none, s.rd x.a)]
  let a := r.headD (0, false)
  need (a.2 && s.group.isNone) .group (s.rd x.a)
  .ok (s.modTask fun y => { y with group := some ⟨sliceOf a.1 / 16, [], false, some (sliceOf a.1), []⟩ })

/-- The rows of the 64 KiB block that holds a byte address (R138). -/
def blockRows (a : Nat) : List Nat :=
  let l0 := localLine (a / 65536 * 65536)
  (List.range 32).map fun k => rowKey (sliceOf a) (k % 4) (l0 / 64 % 32 + k / 4) (l0 / 2048)

/-- A group is run by the sequencer of the stack engine that MGRP has selected, and by those of the slices in which its rows lie (DEDUCED,
log 12). -/
def Group.usesSlice (g : Group) (i : Nat) : Bool :=
  g.seq == some i || g.ops.any fun o => rowSlice o.dst == i || (match o.src with | some k => rowSlice k == i | none => false)

/-- A stack engine or sequencer that runs the group is in a watchdog reset (R170, R449). -/
def State.groupDown (s : State) (g : Group) : Bool := s.edge.inReset.any fun c => codedUnit c && g.usesSlice (c - 256)

/-- MROW (R168). Rows of a port page refuse to be written (R257), and a sequencer in reset aborts the group (R449). -/
def execMrow (x : MW) (s : State) : Out1 := issue .w x.tk s fun s => do
  let copying := x.sub.val = 1
  let r ← s.rowAddrs ((.write, s.rd x.a) :: if copying then [(.read, s.rd x.b)] else [])
  let d := r.headD (0, false)
  let c := if copying then r.getD 1 (0, false) else (0, true)
  need ((s.portPage d.1).isNone) .access (wOf (8 * d.1))
  match s.group with
  | none => fail .group (s.rd x.a)
  | some g => do
    let rows (a : Nat) : List Nat := if x.ofs.val % 2 = 1 then blockRows a else [rowOf a]
    let ds := rows d.1
    let cs : List (Option Nat) := if copying then (rows c.1).map some else ds.map fun _ => none
    need (d.2 && c.2 && sliceOf d.1 / 16 == g.stack && (!copying || sliceOf c.1 / 16 == g.stack)) .group (s.rd x.a)
    need (decide (g.ops.length + ds.length ≤ 64)) .group (s.rd x.a)
    let ops : List RowOp := (ds.zip cs).map fun p => ⟨p.1, p.2⟩
    let pages := (s.rd x.a).toNat / 524288 :: if copying then [(s.rd x.b).toNat / 524288] else []
    let g := { g with ops := g.ops ++ ops, pages := g.pages ++ pages }
    need (!g.aborted && !s.groupDown g) .groupAbort (s.rd x.a)
    .ok (s.modTask fun y => { y with group := some g })

/-- The subarray that holds a row, the repair map applied (R138, R169, R448). -/
def State.subarray (s : State) (key : Nat) : Nat :=
  let ch := rowSlice key % 16 * 4 + rowChannel key
  match s.edge.repair.find? fun r => r.1 == rowStack key && r.2.1 == ch && r.2.2.1 == rowBank key && r.2.2.2.1 == rowNum key with
  | some r => r.2.2.2.2.1
  | none => rowNum key / 512

/-- A sector of a row lies in an open shadow region. -/
def State.rowInShadow (s : State) (key : Nat) : Bool :=
  !s.memory.shadows.isEmpty && (rowLines key).any fun p => (List.range 8).any fun i => (s.shadowAt (p + 16 * i)).isSome

/-- The operation takes the base-die buffer path (R169, R456). -/
def State.buffered (s : State) (o : RowOp) : Bool :=
  s.rowInShadow o.dst ||
    (match o.src with
     | none => false
     | some c => !(c / 65536 == o.dst / 65536 && s.subarray c == s.subarray o.dst))

/-- A line's 128 bytes, as published; a port page holds nothing but what it serves (R257). -/
def State.lineBytes (s : State) (p : Nat) : List Byte :=
  match s.portPage p with
  | some (q, o) => (List.range 128).map fun i => s.portByte q (o + i)
  | none => s.bytesAt p 128

/-- A row's 2,048 bytes by line, as published. -/
def State.rowBytes (s : State) (key : Nat) : List (List Byte) := (rowLines key).map s.lineBytes

/-- The rows that the operations write, in order, on shadow rows: a row written earlier in the group is read as written, but
its sectors in open regions are read as published (R170, R456). -/
def State.runRows (s : State) (ops : List RowOp) : List (Nat × List (List Byte)) :=
  ops.foldl (fun (done : List (Nat × List (List Byte))) o =>
    let data := match o.src with
      | none => List.replicate 16 (List.replicate 128 0)
      | some c =>
        match assoc done c with
        | none => s.rowBytes c
        | some ls =>
          if s.rowInShadow c then
            ((rowLines c).zip ls).map fun (p, l) => (List.range 8).flatMap fun i =>
              if (s.shadowAt (p + 16 * i)).isSome then s.bytesAt (p + 16 * i) 16 else (l.drop (16 * i)).take 16
          else ls
    assocPut done o.dst data) []

/-- Swaps the line at byte address p in: its sectors in open regions go to their shadow copies, and with one such sector the line stays in
L2, else it is discarded (R133, R170, R456). A port page is not written (R257). -/
def State.swapLine (s : State) (p : Nat) (xs : List Byte) : State :=
  let inside (i : Nat) : Bool := (s.shadowAt (p + 16 * i)).isSome
  let old := s.memory
  if (s.portPage p).isSome then s
  else
    let s := (List.range 8).foldl (fun (s : State) i =>
      let data := (xs.drop (16 * i)).take 16
      if inside i then
        s.setMemory { s.memory with shadowData := s.memory.shadowData.put 0 (p / 16 + i) (2 ^ 128 + natOfBytes data) }
      else s.writeBytes (p + 16 * i) data) s
    if (List.range 8).any inside then
      s.setMemory { s.memory with
        lines := old.lines
        dirty := old.dirty.filter fun k => !(k / 8 == p / 128 && !inside (k % 8)) }
    else s.setMemory (s.memory.dropLines [p / 128])

/-- Swaps the written rows in at one point (R170). -/
def State.swapRows (s : State) (rows : List (Nat × List (List Byte))) : State :=
  rows.foldl (fun s r => ((rowLines r.1).zip r.2).foldl (fun s x => s.swapLine x.1 x.2) s) s

/-- The area has room for the shadow copies that the destination rows still lack (R126, R456). -/
def State.groupRoom (s : State) (ops : List RowOp) : Bool :=
  let rows := (ops.map RowOp.dst).eraseDups
  let fresh := rows.flatMap fun k => (rowLines k).flatMap fun p => (List.range 8).filter fun i =>
    (s.shadowAt (p + 16 * i)).isSome && s.memory.shadowData.get 0 (p / 16 + i) == 0
  s.memory.shadows.isEmpty || fresh.isEmpty ||
    decide (s.shadowUsed s.me.part + 16 * fresh.length ≤ (s.partCsr s.me.part 277).toNat)

/-- A source sector that the group reads is uncorrectable (R403, R404). What an earlier operation of the group has written is read as
written, and so is good; a sector of an open region is read as published. -/
def State.groupBad (s : State) (ops : List RowOp) : Bool :=
  (!s.memory.check.isEmpty) && (ops.foldl (fun (acc : List Nat × Bool) o =>
    (o.dst :: acc.1, acc.2 || match o.src with
      | some c => (rowLines c).any fun p => (List.range 8).any fun i =>
        (!acc.1.contains c || (s.shadowAt (p + 16 * i)).isSome) && s.badSector (p + 16 * i) 16
      | none => false)) ([], false)).2

/-- The check that MCMT fails, in the order of R172; the class closes the group or not (R170, R404, R456). -/
def State.commitCheck (s : State) : Option Cls :=
  match s.group with
  | none => some .group
  | some g =>
    if !s.groupRoom g.ops then some .shadowCap
    else if g.aborted || s.groupDown g then some .groupAbort
    else if s.groupBad g.ops then some .sectorCode else none

/-- Lines leave every constant cache. -/
def State.dropCached (s : State) (ls : List Nat) : State :=
  { s with cores := s.cores.map fun x => (x.1, { x.2 with kcache := x.2.kcache.filter fun y => !ls.contains y.1 }) }

/-- The commit of a group (R170): source rows are written back, cleared and scrubbed, then the operations run and their rows are swapped in,
for the constant caches too (R173). -/
def State.commit (s : State) (ops : List RowOp) : State :=
  let lines := ops.flatMap fun o => match o.src with | some c => rowLines c | none => []
  let s := lines.foldl (fun s p => s.took s.me.part p 128) s
  let s := s.setMemory { s.memory with dirty := s.memory.dirty.filter fun k => !lines.contains (k / 8 * 128) }
  let rows := s.runRows ops
  (s.swapRows rows).dropCached (rows.flatMap fun r => (rowLines r.1).map (· / 128))

/-- The running task's group is closed. -/
def State.closeGroup (s : State) : State := s.modTask fun y => { y with group := none }

/-- MCMT (R170): the mask of the operations that took the buffer path. A group-abort or sector-code fault closes the group. -/
def execMcmt (x : MW) (s : State) : Out1 :=
  let closes := (s.takeTokens s.cur .w (popsOf .w x.tk)).isSome &&
    (s.commitCheck == some .groupAbort || s.commitCheck == some .sectorCode)
  match issue .w x.tk s fun s =>
    match s.commitCheck with
    | some c => fail c
    | none =>
      let ops := match s.group with | some g => g.ops | none => []
      let mask := maskOf (((ops.zipIdx).filter fun o => s.buffered o.1).map (·.2))
      .ok ((s.commit ops).closeGroup.clearRpl.result x.d (wOf mask)) with
  | .next t => .next (if closes then { t with cur := s.cur }.closeGroup else t)
  | r => r

end Sys2Proof.Machine
end

