-- ==== Sys2Proof/Machine/Special.lean ====
section
/-! DEFINITION. Special functions (R231 to R234): the 12-bit seeds, and 2^x, log2 x, tanh x and e^x correctly rounded. A
correctly rounded result is found from an enclosure: when both ends round to one code, that is the result; otherwise the
precision is raised. Where every precision tried leaves two codes the result is a free value (log 3). -/

namespace Sys2Proof

/-- floor(sqrt n) for n below 2^(2k). -/
def isqrt (k n : Nat) : Nat :=
  (List.range k).foldl (fun r i => let t := r + 2 ^ (k - 1 - i); if t * t ≤ n then t else r) 0

/-- VRCP of R231 on an f32 code. -/
def vrcpCode (code : Nat) : Nat × Nat :=
  match valOf .f32 code with
  | .nan => (nanCode .f32, 0)
  | .inf s => (withSign .f32 s 0, 0)
  | .fin s n d =>
    if n = 0 then (withSign .f32 s (infMag .f32), fDZ)
    else
      let e := floorLog2 n d
      let t := if 0 ≤ 11 - e then n * 2 ^ (11 - e).toNat / d else n / (d * 2 ^ (e - 11).toNat)
      let q := if t = 2048 then 4096 else 2 ^ 23 / t
      rne32 (.scaled s q (-12 - e))

/-- VRSQ of R232 on an f32 code. -/
def vrsqCode (code : Nat) : Nat × Nat :=
  match valOf .f32 code with
  | .nan => (nanCode .f32, 0)
  | .inf s => if s then (nanCode .f32, fNV) else (0, 0)
  | .fin s n d =>
    if n = 0 then (withSign .f32 s (infMag .f32), fDZ)
    else if s then (nanCode .f32, fNV)
    else
      let e := floorLog2 n d
      let t := if 0 ≤ 11 - e then n * 2 ^ (11 - e).toNat / d else n / (d * 2 ^ (e - 11).toNat)
      let odd := e % 2 = 1
      let e2 := if odd then e - 1 else e
      let y := if odd then isqrt 13 (2 ^ 34 / t) else if t = 2048 then 4096 else isqrt 13 (2 ^ 35 / t)
      rne32 (.scaled false y (-12 - e2 / 2))

/-- VREFR (half false) and VREFQ of R233 from the codes of x and r. A difference 2 - x × r or 3 - x × r × r that is exactly zero is +0 in every
rounding mode, since it is not rounded (DESIGN CHOICE, log 13). -/
def refineCode (mode : Rm) (sat half : Bool) (x r : Nat) : Nat × Nat :=
  let vx := valOf .f32 x
  let vr := valOf .f32 r
  if vr.isNan then (nanCode .f32, 0)
  else if vx.isNan || vx.isInf || vx.isZero || vr.isInf || vr.isZero then (r, 0)
  else
    let xr := (vx.mul vr).1
    let p := if half then (xr.mul vr).1 else xr
    let k := ((Val.fin false (if half then 3 else 2) 1).add false p.neg).1
    let y := (vr.mul k).1
    rnd .f32 mode sat (if half then y.shift (-1) else y)

/-- 2 × atanh(a / b) in units of 2^-p, rounded down at every step, for 0 ≤ a / b ≤ 1/3. -/
def atanh2 (p a b : Nat) : Nat :=
  let z := a * 2 ^ p / b
  let z2 := z * z / 2 ^ p
  2 * ((List.range p).foldl (fun (s, t) i => (s + t / (2 * i + 1), t * z2 / 2 ^ p)) (0, z)).1

/-- ln 2 in units of 2^-p, low by less than 2p units. -/
def ln2 (p : Nat) : Nat := atanh2 p 1 3

/-- e^(y / 2^p) in units of 2^-p, rounded down at every step, for 0 ≤ y < 2^p. -/
def expSeries (p y : Nat) : Nat :=
  ((List.range (p / 2)).foldl (fun (s, t) i => (s + t, t * y / (2 ^ p * (i + 1)))) (0, 2 ^ p)).1

/-- Bounds of e^(y / 2^p) from bounds of y, as magnitudes over 2^p (each error below 8p units). -/
def expBounds (p ylo yhi : Nat) : Nat × Nat := (expSeries p ylo, expSeries p yhi + 16 * p)

/-- Bounds of 2^(n / d) times 2^-k where k is the floor of n / d: lower and upper fractions over 2^p, and k. -/
def exp2Bounds (p : Nat) (neg : Bool) (n d : Nat) : Nat × Nat × Int :=
  let k := (sNum neg n).fdiv d
  let f := (sNum neg n - k * d).toNat
  let l := ln2 p
  let b := expBounds p (f * l / d) (f * (l + 2 * p) / d + 1)
  (b.1, b.2, k)

/-- Bounds of e^(n / d) as for `exp2Bounds`. -/
def expBoundsOf (p : Nat) (neg : Bool) (n d : Nat) : Nat × Nat × Int :=
  let l := ln2 p
  let t := sNum neg n * ((2 ^ p : Nat) : Int)
  let k := t.fdiv (d * (l + 2 * p))
  let lo := t - k * d * (if 0 ≤ k then (l + 2 * p : Nat) else (l : Nat))
  let hi := t - k * d * (if 0 ≤ k then (l : Nat) else (l + 2 * p : Nat))
  let b := expBounds p (lo / d).toNat ((hi / d).toNat + 1)
  (b.1, b.2, k)

/-- The rounded code of a value known to lie strictly between two values, where both round alike (R234). -/
def settle (t : Ty) (lo hi : Val) : Option (Nat × Nat) :=
  let a := rnd t .rne false lo
  let b := rnd t .rne false hi
  if a.1 = b.1 && (a.2 = b.2 || a.2 = 0 || b.2 = 0) then some (a.1, a.2 ||| b.2 ||| fNX) else none

/-- Tries rising precisions; else a free value (log 3). -/
def settleAt (t : Ty) (fn operand : Nat) (bounds : Nat → Val × Val) : Nat × Nat :=
  match [64, 128, 256].findSome? fun p => let b := bounds p; settle t b.1 b.2 with
  | some r => r
  | none => (Config.freeRounded fn operand % 2 ^ t.width, fNX)

/-- VEXP2 of R234 on a code of type t. -/
def vexp2Code (t : Ty) (code : Nat) : Nat × Nat :=
  match valOf t code with
  | .nan => (nanCode t, 0)
  | .inf s => (if s then 0 else infMag t, 0)
  | .fin s n d =>
    if n % d = 0 then rnd t .rne false (.scaled false 1 (max (-2000) (min 2000 (sNum s (n / d)))))
    else if 2000 * d < n then rnd t .rne false (.scaled false 1 (if s then -2000 else 2000))
    else settleAt t 0 code fun p =>
      let b := exp2Bounds p s n d
      (.scaled false b.1 (b.2.2 - p), .scaled false b.2.1 (b.2.2 - p))

/-- exp_rn of R234 on an f32 code. -/
def expRn (code : Nat) : Nat :=
  match valOf .f32 code with
  | .nan => nanCode .f32
  | .inf s => if s then 0 else infMag .f32
  | .fin s n d =>
    if n = 0 then 1065353216
    else if 1000 * d < n then (if s then 0 else infMag .f32)
    else if n * 2 ^ 40 < d then 1065353216
    else (settleAt .f32 3 code fun p =>
      let b := expBoundsOf p s n d
      (.scaled false b.1 (b.2.2 - p), .scaled false b.2.1 (b.2.2 - p))).1

/-- VLOG2 of R234 on a code of type t. -/
def vlog2Code (t : Ty) (code : Nat) : Nat × Nat :=
  match valOf t code with
  | .nan => (nanCode t, 0)
  | .inf s => if s then (nanCode t, fNV) else (infMag t, 0)
  | .fin s n d =>
    if n = 0 then (withSign t true (infMag t), fDZ)
    else if s then (nanCode t, fNV)
    else
      let e := floorLog2 n d
      let a := if 0 ≤ e then n else n * 2 ^ (-e).toNat
      let b := if 0 ≤ e then d * 2 ^ e.toNat else d
      if a = b then rnd t .rne false (.ofInt e)
      else settleAt t 1 code fun p =>
        let l := ln2 p
        let y := atanh2 p (a - b) (a + b)
        let lo := e * ((2 ^ p : Nat) : Int) + (y * 2 ^ p / (l + 2 * p) : Nat)
        let hi := e * ((2 ^ p : Nat) : Int) + ((y + 4 * p) * 2 ^ p / l + 1 : Nat)
        (.fin (decide (lo < 0)) lo.natAbs (2 ^ p), .fin (decide (hi < 0)) hi.natAbs (2 ^ p))

/-- VTANH of R234 on a code of type t. -/
def vtanhCode (t : Ty) (code : Nat) : Nat × Nat :=
  match valOf t code with
  | .nan => (nanCode t, 0)
  | .inf s => (rnd t .rne false (.fin s 1 1))
  | .fin s n d =>
    if n = 0 then (withSign t s 0, 0)
    else if 20 * d < n then
      (match settle t (.fin s (2 ^ 57 - 1) (2 ^ 57)) (.fin s 1 1) with | some r => r | none => (0, 0))
    else if n * 2 ^ 13 < d then
      let c := n * n
      let lo := n * (3 * d * d - c)
      (match settle t (.fin s lo (3 * d * d * d)) (.fin s (5 * lo * d * d + 2 * n * c * c) (15 * d ^ 5)) with
        | some r => r
        | none => (Config.freeRounded 2 code % 2 ^ t.width, fNX))
    else settleAt t 2 code fun p =>
      let b := expBoundsOf p false (2 * n) d
      let at' (x : Nat) : Val :=
        let e := if 0 ≤ b.2.2 then x * 2 ^ b.2.2.toNat else x
        .fin s (e - 2 ^ p) (e + 2 ^ p)
      (at' b.1, at' b.2.1)

end Sys2Proof
end

