-- ==== Sys2Proof/Machine/Vector.lean ====
section
/-! DEFINITION. V instructions that act element by element: arithmetic, logic, special functions, comparison, conversion,
quantisation and the butterfly (R219 to R239). -/

namespace Sys2Proof.Machine

/-- R221: writes register d of an element-by-element instruction. `op row element a b C` gives the code and flags of an
active element; the sources are read as elements of type `ts`, the destination is written as type `t`. -/
def State.lanewise (s : State) (x : VW) (t ts : Ty) (op : Nat → Nat → Nat → Nat → Nat → Nat × Nat) : State :=
  let c := s.me
  let r := (List.range (c.rows .v)).foldl (fun (acc : Core × Nat) i =>
    let a := codesOf ts (c.vrow .v x.a.val i)
    let b := codesOf ts (c.vrow .v x.b.val i)
    let y := codesOf ts (c.vrow .v x.c.val i)
    let row := rowWith t (c.vrow .v x.d.val i) (rowElems t (c.cols .v) (c.prow x.pred.val i) x.z fun e =>
      op i e (a.getD e 0) (b.getD e 0) (y.getD e 0))
    (acc.1.setVrow .v x.d.val i row.1, acc.2 ||| row.2)) (c, 0)
  s.setMe (r.1.raise .v r.2)

/-- R221 for a predicate destination: `op row` gives the bits of the active positions. -/
def State.bitwise (s : State) (x : VW) (op : Nat → Nat) : State :=
  let c := s.me
  let valid := 2 ^ (c.cols .v) - 1
  s.setMe ((List.range (c.rows .v)).foldl (fun acc i =>
    let old := c.prow x.d.val i
    let on := c.prow x.pred.val i &&& valid
    let keep := if x.z then old - (old &&& valid) else old - (old &&& on)
    acc.setProw x.d.val i (keep ||| (op i &&& on))) c)

/-- An element-by-element instruction without fault. -/
def vmap (x : VW) (t : Ty) (s : State) (op : State → Nat → Nat → Nat → Nat → Nat × Nat) : Out1 :=
  issue .v x.tk s fun s => .ok (s.lanewise x t t fun _ => op s)

/-- The mode of the instruction's RM field for an element at a position. -/
def State.rm (s : State) (x : VW) (pos : Nat) : Rm := s.me.rmMode .v x.rm.val pos

/-- DPH moves on when the instruction dithers and has an active element (R191). -/
def State.dithered (s : State) (x : VW) (t : Ty) : State :=
  if x.rm.val = 5 && s.me.anyActive .v t x.pred.val then s.setMe (s.me.advance .v) else s

/-- a × b + c exactly; a NaN operand raises nothing (R192, R193). -/
def fmaVal (down : Bool) (a b c : Val) : Val × Nat :=
  if a.isNan || b.isNan || c.isNan then (.nan, 0)
  else
    let p := a.mul b
    let r := p.1.add down c
    (r.1, p.2 ||| r.2)

/-- VMIN and VMAX of codes (R226). -/
def minMax (t : Ty) (most : Bool) (a b : Nat) : Nat :=
  if t.isF then
    let x := valOf t a
    let y := valOf t b
    if x.isNan || y.isNan then nanCode t
    else
      let less := x.lt y || (x.same y && x.isNeg)
      if less != most then a else b
  else if decide (intOf t a < intOf t b) != most then a else b

/-- VABS and VNEG of a code (R227). -/
def absNeg (t : Ty) (neg sat : Bool) (a : Nat) : Nat × Nat :=
  let w := t.width
  if t.isF then
    if (valOf t a).isNan then (nanCode t, 0)
    else if neg then (if a.testBit (w - 1) then a - 2 ^ (w - 1) else a + 2 ^ (w - 1), 0)
    else (a % 2 ^ (w - 1), 0)
  else
    let v := if neg then -(intOf t a) else |intOf t a|
    if sat then satInt t v else (pattern w v, 0)

/-- VIADD, VISUB, VIMUL low: wrapped or clamped (R228). -/
def intResult (t : Ty) (sat : Bool) (v : Int) : Nat × Nat := if sat then satInt t v else (pattern t.width v, 0)

/-- VADD (R225). -/
def execVadd (x : VW) (s : State) : Out1 := vmap x x.ty s fun s _ a b _ =>
  rndOf x.ty (s.rm x 0) x.sat ((valOf x.ty a).add (s.rm x 0 == .down) (valOf x.ty b))
/-- VSUB (R225). -/
def execVsub (x : VW) (s : State) : Out1 := vmap x x.ty s fun s _ a b _ =>
  rndOf x.ty (s.rm x 0) x.sat ((valOf x.ty a).add (s.rm x 0 == .down) (valOf x.ty b).neg)
/-- VMUL (R225). -/
def execVmul (x : VW) (s : State) : Out1 := vmap x x.ty s fun s _ a b _ =>
  rndOf x.ty (s.rm x 0) x.sat ((valOf x.ty a).mul (valOf x.ty b))
/-- VFMA (R225). -/
def execVfma (x : VW) (s : State) : Out1 := vmap x x.ty s fun s _ a b c =>
  rndOf x.ty (s.rm x 0) x.sat (fmaVal (s.rm x 0 == .down) (valOf x.ty a) (valOf x.ty b) (valOf x.ty c))
/-- VMIN (R226). -/
def execVmin (x : VW) (s : State) : Out1 := vmap x x.ty s fun _ _ a b _ => (minMax x.ty false a b, 0)
/-- VMAX (R226). -/
def execVmax (x : VW) (s : State) : Out1 := vmap x x.ty s fun _ _ a b _ => (minMax x.ty true a b, 0)
/-- VABS (R227). -/
def execVabs (x : VW) (s : State) : Out1 := vmap x x.ty s fun _ _ a _ _ => absNeg x.ty false x.sat a
/-- VNEG (R227). -/
def execVneg (x : VW) (s : State) : Out1 := vmap x x.ty s fun _ _ a _ _ => absNeg x.ty true x.sat a
/-- VRCP (R231). -/
def execVrcp (x : VW) (s : State) : Out1 := vmap x .f32 s fun _ _ a _ _ => vrcpCode a
/-- VRSQ (R232). -/
def execVrsq (x : VW) (s : State) : Out1 := vmap x .f32 s fun _ _ a _ _ => vrsqCode a
/-- VREFR (R233). -/
def execVrefr (x : VW) (s : State) : Out1 := vmap x .f32 s fun s _ a b _ => refineCode (s.rm x 0) x.sat false a b
/-- VREFQ (R233). -/
def execVrefq (x : VW) (s : State) : Out1 := vmap x .f32 s fun s _ a b _ => refineCode (s.rm x 0) x.sat true a b
/-- VEXP2 (R234). -/
def execVexp2 (x : VW) (s : State) : Out1 := vmap x x.ty s fun _ _ a _ _ => vexp2Code x.ty a
/-- VLOG2 (R234). -/
def execVlog2 (x : VW) (s : State) : Out1 := vmap x x.ty s fun _ _ a _ _ => vlog2Code x.ty a
/-- VTANH (R234). -/
def execVtanh (x : VW) (s : State) : Out1 := vmap x x.ty s fun _ _ a _ _ => vtanhCode x.ty a
/-- VIADD (R228). -/
def execViadd (x : VW) (s : State) : Out1 := vmap x x.ty s fun _ _ a b _ =>
  intResult x.ty x.sat (intOf x.ty a + intOf x.ty b)
/-- VISUB (R228). -/
def execVisub (x : VW) (s : State) : Out1 := vmap x x.ty s fun _ _ a b _ =>
  intResult x.ty x.sat (intOf x.ty a - intOf x.ty b)
/-- VIMUL (R228): the low half, or with sub 1 the high half of the exact product. -/
def execVimul (x : VW) (s : State) : Out1 := vmap x x.ty s fun _ _ a b _ =>
  let p := intOf x.ty a * intOf x.ty b
  if x.sub = 1 then (pattern x.ty.width (p / ((2 ^ x.ty.width : Nat) : Int)), 0) else intResult x.ty x.sat p
/-- VAND (R229). -/
def execVand (x : VW) (s : State) : Out1 := vmap x .n32 s fun _ _ a b _ => (a &&& b, 0)
/-- VOR (R229). -/
def execVor (x : VW) (s : State) : Out1 := vmap x .n32 s fun _ _ a b _ => (a ||| b, 0)
/-- VXOR (R229). -/
def execVxor (x : VW) (s : State) : Out1 := vmap x .n32 s fun _ _ a b _ => (a ^^^ b, 0)

/-- The amount of a shift (R229). -/
def shiftAmount (x : VW) (b : Nat) : Nat := if x.immBit then x.imm6 else b % 64 % x.ty.width

/-- VSHL (R229). -/
def execVshl (x : VW) (s : State) : Out1 := vmap x x.ty s fun _ _ a b _ =>
  (a * 2 ^ shiftAmount x b % 2 ^ x.ty.width, 0)
/-- VSHR (R229). -/
def execVshr (x : VW) (s : State) : Out1 := vmap x x.ty s fun _ _ a b _ => (a / 2 ^ shiftAmount x b, 0)
/-- VSHRA (R229). -/
def execVshra (x : VW) (s : State) : Out1 := vmap x x.ty s fun _ _ a b _ =>
  (pattern x.ty.width (signed x.ty.width a / ((2 ^ shiftAmount x b : Nat) : Int)), 0)
/-- VCLMUL (R230). -/
def execVclmul (x : VW) (s : State) : Out1 := vmap x x.ty s fun _ _ a b _ =>
  let p := clmulNat x.ty.width a b
  (if x.sub = 1 then p / 2 ^ x.ty.width else p % 2 ^ x.ty.width, 0)

/-- The condition of VCMP on two codes (R235). -/
def compares (t : Ty) (cc a b : Nat) : Bool :=
  let x := valOf t a
  let y := valOf t b
  if x.isNan || y.isNan then decide (cc = 1) || decide (cc = 6)
  else match cc with
    | 0 => x.same y
    | 1 => !x.same y
    | 2 => x.lt y
    | 3 => !y.lt x
    | 4 => y.lt x
    | 5 => !x.lt y
    | _ => false

/-- VCMP (R235): a lane-pair element writes both of its bits. -/
def execVcmp (x : VW) (s : State) : Out1 := issue .v x.tk s fun s =>
  let c := s.me
  let t := x.ty
  let wide := decide (t.width = 64)
  .ok (s.setMe ((List.range (c.rows .v)).foldl (fun acc i =>
    let a := codesOf t (c.vrow .v x.a.val i)
    let b := codesOf t (c.vrow .v x.b.val i)
    let row := (List.range (elems t)).foldl (fun r e =>
      let bits := (if wide then 3 else 1) * 2 ^ elemCol t e
      if !elemValid t (c.cols .v) e then r
      else if elemOn t (c.prow x.pred.val i) e then
        (if compares t x.sub.val (a.getD e 0) (b.getD e 0) then r ||| bits else r - (r &&& bits))
      else if x.z then r - (r &&& bits) else r) (c.prow x.d.val i)
    acc.setProw x.d.val i row) c))

/-- VSELP (R236); the predicate operand is read whatever VCNT and PRED say (R222). -/
def execVselp (x : VW) (s : State) : Out1 := issue .v x.tk s fun s =>
  .ok (s.lanewise x .n32 .n32 fun i e a b _ => (if (s.me.prow x.c.val i).testBit e then a else b, 0))

/-- VCVT (R237): MOD[3:0] names the source type. -/
def execVcvt (x : VW) (s : State) : Out1 := issue .v x.tk s fun s =>
  let ts := Ty.ofCode (x.mod.val % 16)
  .ok ((s.lanewise x x.ty ts fun _ e a _ _ => rnd x.ty (s.rm x (e % 32)) x.sat (valOf ts a)).dithered x x.ty)

/-- VQNT (R238): a block scale for each half-row that has a valid column, and the codes of its active lanes. -/
def execVqnt (x : VW) (s : State) : Out1 := issue .v x.tk s fun s =>
  let c := s.me
  let t := x.ty
  let cols := c.cols .v
  let r := (List.range (c.rows .v)).foldl (fun (acc : Core × Nat) i =>
    let a := c.vrow .v x.a.val i
    let mask := c.prow x.pred.val i
    let val (k : Nat) : Val := if decide (k < cols) && mask.testBit k then valOf .f32 (a.getD k 0) else .zero
    let block (q : Nat) : Nat × Nat := chooseScale t ((List.range 32).map fun k => val (32 * q + k))
    let s0 := block 0
    let s1 := block 1
    let fl := (if 0 < cols then s0.2 else 0) ||| (if 32 < cols then s1.2 else 0)
    let row := rowWith t (c.vrow .v x.d.val i) (rowElems t cols mask x.z fun k =>
      encodeE t (s.rm x (k % 32)) false (if k < 32 then s0.1 else s1.1) (val k))
    let old := c.vrow .v x.c.val i
    let scales := (if 0 < cols then s0.1 else old.getD 0 0) :: (if 32 < cols then s1.1 else old.getD 1 0) :: old.drop 2
    ((acc.1.setVrow .v x.d.val i row.1).setVrow .v x.c.val i scales, acc.2 ||| fl ||| row.2)) (c, 0)
  .ok ((s.setMe (r.1.raise .v r.2)).dithered x t)

/-- One butterfly stage of stride h on f32 codes (R239). -/
def butterfly (h : Nat) (xs : List Nat) : List (Nat × Nat) :=
  (List.range 32).map fun k =>
    if k / h % 2 = 0 then addF32 (xs.getD k 0) (xs.getD (k + h) 0)
    else rndOf .f32 .rne false ((valOf .f32 (xs.getD (k - h) 0)).add false (valOf .f32 (xs.getD k 0)).neg)

/-- A block of VHAD: codes and flags (R239). -/
def hadamard (scale : Nat) (xs : List Nat) : List Nat × Nat :=
  let r := [1, 2, 4, 8, 16].foldl (fun (acc : List Nat × Nat) h =>
    let ys := butterfly h acc.1
    (ys.map (·.1), ys.foldl (fun f y => f ||| y.2) acc.2)) (xs, 0)
  let k := match scale with | 1 => some (Val.fin false 1 32) | 2 => some (valOf .f32 1043662067) | _ => none
  match k with
  | none => (r.1.map (canon .f32), r.2)
  | some g =>
    let ys := r.1.map fun y => rndOf .f32 .rne false ((valOf .f32 y).mul g)
    (ys.map (·.1), ys.foldl (fun f y => f ||| y.2) r.2)

/-- VHAD (R239). -/
def execVhad (x : VW) (s : State) : Out1 := issue .v x.tk s fun s =>
  let c := s.me
  let cols := c.cols .v
  let r := (List.range (c.rows .v)).foldl (fun (acc : Core × Nat) i =>
    let a := c.vrow .v x.a.val i
    let mask := c.prow x.pred.val i &&& (2 ^ cols - 1)
    let block (q : Nat) : List Nat × Nat :=
      if mask / 2 ^ (32 * q) % 2 ^ 32 = 0 then ([], 0)
      else hadamard (x.mod.val % 4) ((List.range 32).map fun k => if 32 * q + k < cols then a.getD (32 * q + k) 0 else 0)
    let b0 := block 0
    let b1 := block 1
    let row := rowWith .f32 (c.vrow .v x.d.val i) (rowElems .f32 cols (c.prow x.pred.val i) x.z fun k =>
      (if k < 32 then b0.1.getD k 0 else b1.1.getD (k - 32) 0, 0))
    (acc.1.setVrow .v x.d.val i row.1, acc.2 ||| b0.2 ||| b1.2)) (c, 0)
  .ok (s.setMe (r.1.raise .v r.2))

end Sys2Proof.Machine
end

