-- ==== Sys2Proof/Machine/VectorMove.lean ====
section
/-! DEFINITION. V instructions along the axes, the select unit, moves, bank transfers, predicates and the merge of attention
partials (R222, R240 to R251). -/

namespace Sys2Proof.Machine

/-- All 1,024 lanes of the vector register named j, as they stand (R222). -/
def Core.vall (c : Core) (j : Nat) : List Nat := (c.vreg.slice 0 (1024 * c.phys .v j) 1024).map BitVec.toNat

/-- A movement of whole lanes: active lane (i, c) takes source lane `from i c` (R222, R240, R243). -/
def movement (x : VW) (s : State) (src : Nat → Nat → Nat) : Out1 := issue .v x.tk s fun s =>
  let a := s.me.vall x.a.val
  .ok (s.lanewise x .n32 .n32 fun i c _ _ _ => (a.getD (src i c) 0, 0))

/-- The amount of R240, taken mod n from s[b] where it is no immediate. -/
def amount (x : VW) (s : State) (n : Nat) : Nat := if x.immBit then x.imm6 else ({ s with eng := .v }.rd x.b).toNat % n

/-- A rotation or broadcast: the amount is read from V's copy once its tokens are popped (R219, R240). -/
def axisMove (x : VW) (n : Nat) (s : State) (src : Nat → Nat → Nat → Nat) : Out1 := issue .v x.tk s fun s =>
  let a := s.me.vall x.a.val
  let k := amount x s n
  .ok (s.lanewise x .n32 .n32 fun i c _ _ _ => (a.getD (src k i c) 0, 0))

/-- VROTR (R240). -/
def execVrotr (x : VW) (s : State) : Out1 := axisMove x 16 s fun k i c => 64 * ((i + k) % 16) + c
/-- VROTC (R240). -/
def execVrotc (x : VW) (s : State) : Out1 := axisMove x 64 s fun k i c => 64 * i + (c + k) % 64
/-- VBCR (R240). -/
def execVbcr (x : VW) (s : State) : Out1 := axisMove x 16 s fun k _ c => 64 * k + c
/-- VBCC (R240). -/
def execVbcc (x : VW) (s : State) : Out1 := axisMove x 64 s fun k i _ => 64 * i + k
/-- VTRN (R243). -/
def execVtrn (x : VW) (s : State) : Out1 := movement x s fun i c => 64 * (c % 16) + 16 * (c / 16) + i

/-! ### Reductions and scans (R241, R242) -/

/-- The identity of an operation. -/
def identity (t : Ty) (op : Nat) : Nat :=
  match op with
  | 1 => if t.isF then infMag t else pattern t.width t.maxInt
  | 2 => if t.isF then withSign t true (infMag t) else pattern t.width t.minInt
  | 3 => 2 ^ t.width - 1
  | _ => 0

/-- Two codes combined; `sat` clamps an integer add. -/
def combine (t : Ty) (op : Nat) (sat : Bool) (a b : Nat) : Nat × Nat :=
  match op with
  | 0 =>
    if t.isF then rndOf t .rne false ((valOf t a).add false (valOf t b))
    else intResult t sat (intOf t a + intOf t b)
  | 1 => (minMax t false a b, 0)
  | 2 => (minMax t true a b, 0)
  | 3 => (a &&& b, 0)
  | 4 => (a ||| b, 0)
  | _ => (a ^^^ b, 0)

/-- One level of the tree of R241: neighbours combine, an absent one with v gives v. -/
def treeLevel (f : Nat → Nat → Nat × Nat) : List (Option Nat) → List (Option Nat) × Nat
  | [] => ([], 0)
  | [y] => ([y], 0)
  | y :: z :: r =>
    let rest := treeLevel f r
    match y, z with
    | some a, some b => let p := f a b; (some p.1 :: rest.1, p.2 ||| rest.2)
    | some a, none => (some a :: rest.1, rest.2)
    | none, z => (z :: rest.1, rest.2)

/-- The tree of R241 over at most 64 positions. -/
def tree (f : Nat → Nat → Nat × Nat) (ys : List (Option Nat)) : Option Nat × Nat :=
  let r := (List.range 6).foldl (fun (acc : List (Option Nat) × Nat) _ =>
    let l := treeLevel f acc.1
    (l.1, acc.2 ||| l.2)) (ys, 0)
  (r.1.headD none, r.2)

/-- A reduction of positions, absent ones none (R241). -/
def reduce (t : Ty) (op : Nat) (sat : Bool) (ys : List (Option Nat)) : Nat × Nat :=
  if op = 0 && !t.isF then intResult t sat ((ys.filterMap id).foldl (fun a y => a + intOf t y) 0)
  else
    let r := tree (combine t op false) ys
    match r.1 with
    | some v => (canon t v, r.2)
    | none => (identity t op, 0)

/-- An element of a scan: none where it is absent, else its code and flags (R242). `acc` folds the inputs that count for the
next active lane, `pend` is the input it does not count yet. -/
def scanFrom (t : Ty) (op : Nat) (sat ex : Bool) : Option Nat → Option Nat → List (Option Nat) → List (Option (Nat × Nat))
  | _, _, [] => []
  | acc, pend, none :: ys => none :: scanFrom t op sat ex acc pend ys
  | acc, pend, some v :: ys =>
    let new := if ex then pend else some v
    let r := match acc, new with
      | a, none => (a, 0)
      | none, some n => (some (canon t n), 0)
      | some a, some n => let p := combine t op sat a n; (some p.1, p.2)
    some (r.1.getD (identity t op), r.2) :: scanFrom t op sat ex r.1 (some v) ys

/-- The active lane codes of a line of lanes: of column c by row, or of row i by column. -/
def State.activeLine (s : State) (x : VW) (a : List Nat) (byColumn : Bool) (k : Nat) : List (Option Nat) :=
  let c := s.me
  (List.range (if byColumn then 16 else 64)).map fun j =>
    let (i, col) := if byColumn then (j, k) else (k, j)
    if decide (i < c.rows .v) && decide (col < c.cols .v) && (c.prow x.pred.val i).testBit col then
      some (a.getD (64 * i + col) 0 % 2 ^ x.ty.width)
    else none

/-- Writes elements found line by line: `line k` gives those of line k by position (R241, R242). -/
def State.alongAxis (s : State) (x : VW) (byColumn : Bool) (line : List (Option Nat) → List Elem) : State :=
  let c := s.me
  let a := c.vall x.a.val
  let lines := (List.range (if byColumn then c.cols .v else c.rows .v)).map fun k => line (s.activeLine x a byColumn k)
  let r := (List.range (c.rows .v)).foldl (fun (acc : Core × Nat) i =>
    let mask := c.prow x.pred.val i
    let new : List Elem := (List.range 64).map fun col =>
      if !decide (col < c.cols .v) then none
      else if mask.testBit col then
        (if byColumn then (lines.getD col []).getD i none else (lines.getD i []).getD col none)
      else if x.z then some (0, 0) else none
    let row := rowWith x.ty (c.vrow .v x.d.val i) new
    (acc.1.setVrow .v x.d.val i row.1, acc.2 ||| row.2)) (c, 0)
  s.setMe (r.1.raise .v r.2)

/-- A reduction (R241): its result stands at position 0, or with `.bc` at every active position. It raises its flags also where position 0 is
inactive and nothing is written: the spec does not say (DESIGN CHOICE, log 13). -/
def State.reduction (s : State) (x : VW) (byColumn : Bool) : State :=
  let c := s.me
  let a := c.vall x.a.val
  let fl := (List.range (if byColumn then c.cols .v else c.rows .v)).foldl (fun f k =>
    f ||| (reduce x.ty x.redOp x.sat (s.activeLine x a byColumn k)).2) 0
  let s := s.alongAxis x byColumn fun ys =>
    let v := (reduce x.ty x.redOp x.sat ys).1
    ys.zipIdx.map fun (y, j) => if y.isSome && (x.mod.val.testBit 3 || j == 0) then some (v, 0) else none
  s.setMe (s.me.raise .v fl)

/-- VREDR: for each column over the rows (R241). -/
def execVredr (x : VW) (s : State) : Out1 := issue .v x.tk s fun s => .ok (s.reduction x true)
/-- VREDC: for each row over the columns (R241). -/
def execVredc (x : VW) (s : State) : Out1 := issue .v x.tk s fun s => .ok (s.reduction x false)
/-- VSCNR (R242). -/
def execVscnr (x : VW) (s : State) : Out1 := issue .v x.tk s fun s =>
  .ok (s.alongAxis x true fun ys => scanFrom x.ty x.redOp x.sat (x.mod.val.testBit 4) none none ys)
/-- VSCNC (R242). -/
def execVscnc (x : VW) (s : State) : Out1 := issue .v x.tk s fun s =>
  .ok (s.alongAxis x false fun ys => scanFrom x.ty x.redOp x.sat (x.mod.val.testBit 4) none none ys)

/-! ### Compaction and ranking -/

/-- Columns below COLS whose bit of the predicate row is 1, ascending. -/
def columnsOf (cols mask : Nat) : List Nat := (List.range cols).filter fun c => mask.testBit c

/-- VCOMP (R243): PRED selects the sources. -/
def execVcomp (x : VW) (s : State) : Out1 := issue .v x.tk s fun s =>
  let c := s.me
  .ok (s.setMe ((List.range (c.rows .v)).foldl (fun acc i =>
    let a := c.vrow .v x.a.val i
    let l := columnsOf (c.cols .v) (c.prow x.pred.val i)
    let old := c.vrow .v x.d.val i
    acc.setVrow .v x.d.val i ((List.range 64).map fun k =>
      match l[k]? with
      | some col => a.getD col 0
      | none => if k < c.cols .v && x.z then 0 else old.getD k 0)) c))

/-- Column p ranks before column q (R244): a larger value first, NaN last, ties to the lower column. -/
def ranksBefore (t : Ty) (a : List Nat) (p q : Nat) : Bool :=
  let x := valOf t (a.getD p 0 % 2 ^ t.width)
  let y := valOf t (a.getD q 0 % 2 ^ t.width)
  if x.isNan then y.isNan && decide (p < q)
  else y.isNan || y.lt x || (!x.lt y && decide (p < q))

/-- Enters a column into a ranking. -/
def insertRank (before : Nat → Nat → Bool) : List Nat → Nat → List Nat
  | [], c => [c]
  | d :: r, c => if before c d then c :: d :: r else d :: insertRank before r c

/-- VTOPK (R244). -/
def execVtopk (x : VW) (s : State) : Out1 := issue .v x.tk s fun s =>
  let c := s.me
  let valid := 2 ^ (c.cols .v) - 1
  .ok (s.setMe ((List.range (c.rows .v)).foldl (fun acc i =>
    let a := c.vrow .v x.a.val i
    let l := ((columnsOf (c.cols .v) (c.prow x.pred.val i)).foldl (insertRank (ranksBefore x.ty a)) []).take (x.imm6 + 1)
    let old := c.prow x.d.val i
    let acc := acc.setProw x.d.val i (old - (old &&& valid) ||| maskOf l)
    if x.immBit then acc.setVrow .v x.c.val i ((List.range 64).map fun r => l.getD r 4294967295) else acc) c))

/-! ### Moves (R245) -/

/-- VIOTA: the column, the row, or 64i + c. -/
def execViota (x : VW) (s : State) : Out1 := issue .v x.tk s fun s =>
  .ok (s.lanewise x .n32 .n32 fun i c _ _ _ => (match x.sub.val with | 0 => c | 1 => i | _ => 64 * i + c, 0))
/-- VMOV. -/
def execVmov (x : VW) (s : State) : Out1 := vmap x .n32 s fun _ _ a _ _ => (a, 0)
/-- VMOVZ: lanes of an accumulator. -/
def execVmovz (x : VW) (s : State) : Out1 := issue .v x.tk s fun s =>
  .ok (s.lanewise x .n32 .n32 fun i c _ _ _ => ((s.me.acc.get 0 (1024 * x.a.val + 64 * i + c)).toNat, 0))
/-- VMOVS: one element into s[d], sign-extended for i types; neither predicated nor governed by VCNT. -/
def execVmovs (x : VW) (s : State) : Out1 := issue .v x.tk s fun s => do
  let k := (s.rd x.b).toNat
  need (decide (k < 1024) && (!x.ty.is64 || k % 2 == 0)) .localRange (s.rd x.b)
  let a := s.me.vall x.a.val
  let code := if x.ty.is64 then a.getD k 0 + a.getD (k + 1) 0 * 2 ^ 32 else a.getD k 0 % 2 ^ x.ty.width
  .ok (s.result x.d (wOfInt (intOf x.ty code)))
/-- VBCS: s[a] into every active element. -/
def execVbcs (x : VW) (s : State) : Out1 := issue .v x.tk s fun s =>
  .ok (s.lanewise x x.ty x.ty fun _ _ _ _ _ => ((s.rd x.a).toNat % 2 ^ x.ty.width, 0))

/-! ### Bank transfers (R246, R247) -/

/-- Every valid element, and its scale, of a bank of this format lies below bank byte 0x4_0000. -/
def State.gridOk (s : State) (f : Word) (e p : Nat) : Bool :=
  (List.range (s.me.rows .v)).all fun i => inBank f (e + i * p) (s.me.cols .v)

/-- VLDB (R246). -/
def execVldb (x : VW) (s : State) : Out1 := issue .v x.tk s fun s => do
  let v := s.rd x.b
  let e := wField v 0 21
  let p := wField v 21 21
  need (v.toNat / 2 ^ 42 == 0) .localRange v
  need (s.gridOk (s.me.bfmt .v x.a.val) e p) .localRange v
  .ok ((s.lanewise x x.ty x.ty fun i c _ _ _ =>
    let d := s.me.decodeBank .v x.a.val (e + i * p + c)
    let r := rnd x.ty (s.rm x (c % 32)) x.sat d.1
    (r.1, r.2 ||| d.2)).dithered x x.ty)

/-- VSTB (R247). -/
def execVstb (x : VW) (s : State) : Out1 := issue .v x.tk s fun s => do
  let v := s.rd x.b
  let e := wField v 0 21
  let p := wField v 21 21
  let c := s.me
  let f := c.bfmt .v x.d.val
  let cols := c.cols .v
  need (v.toNat / 2 ^ 42 == 0) .localRange v
  need (s.gridOk f e p) .localRange v
  let blocks := fmtScl f == 1
  need (!blocks || (x.pred == 0 && e % 32 == 0 && p % 32 == 0 && cols % 32 == 0)) .operandFormat v
  let r := (List.range (c.rows .v)).foldl (fun (acc : State × Nat) i =>
    let a := c.vrow .v x.a.val i
    let val (k : Nat) : Val := valOf x.ty (a.getD k 0 % 2 ^ x.ty.width)
    if blocks then
      (List.range (cols / 32)).foldl (fun acc q =>
        let r := acc.1.encodeBlock .v x.d.val ((e + i * p + 32 * q) / 32) ((List.range 32).map fun k => val (32 * q + k))
        (r.1, acc.2 ||| r.2)) acc
    else
      (columnsOf cols (c.prow x.pred.val i)).foldl (fun acc k =>
        let r := acc.1.encodeBank .v x.d.val (e + i * p + k) (val k)
        (r.1, acc.2 ||| r.2)) acc) (s, 0)
  let s' := r.1.setMe (r.1.me.raise .v r.2)
  .ok (if fmtRnd f = 2 && c.anyActive .v x.ty x.pred.val then s'.setMe (s'.me.advance .v) else s')

/-! ### Predicates (R248 to R250) -/

/-- PAND. -/
def execPand (x : VW) (s : State) : Out1 := issue .v x.tk s fun s =>
  .ok (s.bitwise x fun i => s.me.prow x.a.val i &&& s.me.prow x.b.val i)
/-- POR. -/
def execPor (x : VW) (s : State) : Out1 := issue .v x.tk s fun s =>
  .ok (s.bitwise x fun i => s.me.prow x.a.val i ||| s.me.prow x.b.val i)
/-- PXOR. -/
def execPxor (x : VW) (s : State) : Out1 := issue .v x.tk s fun s =>
  .ok (s.bitwise x fun i => s.me.prow x.a.val i ^^^ s.me.prow x.b.val i)
/-- PNOT. -/
def execPnot (x : VW) (s : State) : Out1 := issue .v x.tk s fun s =>
  .ok (s.bitwise x fun i => 18446744073709551615 - s.me.prow x.a.val i)
/-- PSET: MOD[0] into the active positions, or with MOD[1] into every bit. -/
def execPset (x : VW) (s : State) : Out1 := issue .v x.tk s fun s =>
  let v := if x.mod.val.testBit 0 then 18446744073709551615 else 0
  .ok (if x.mod.val.testBit 1 then s.setMe ((List.range 16).foldl (fun c i => c.setProw x.d.val i v) s.me)
    else s.bitwise x fun _ => v)

/-- The 1 bits of p_a in active positions of row i. -/
def State.activeBits (s : State) (x : VW) (i : Nat) : Nat :=
  s.me.prow x.a.val i &&& s.me.prow x.pred.val i &&& (2 ^ (s.me.cols .v) - 1)

/-- PCNT (R249). With no active position the count written to s[d] is 0, in merge mode too (R103; DESIGN CHOICE, log 13). -/
def execPcnt (x : VW) (s : State) : Out1 := issue .v x.tk s fun s =>
  .ok (if x.sub = 0 then
      s.result x.d (wOf ((List.range (s.me.rows .v)).foldl (fun n i => n + ones 64 (s.activeBits x i)) 0))
    else s.lanewise x .n32 .n32 fun i _ _ _ _ => (ones 64 (s.activeBits x i), 0))

/-- PFRST (R249). With no active position pfrst.s writes 1,024, in merge mode too (R103; DESIGN CHOICE, log 13). -/
def execPfrst (x : VW) (s : State) : Out1 := issue .v x.tk s fun s =>
  let first (i : Nat) : Option Nat := let b := s.activeBits x i; if b = 0 then none else some (trailing 64 b)
  .ok (if x.sub = 0 then s.bitwise x fun i => match first i with | some c => 2 ^ c | none => 0
    else s.result x.d (wOf (((List.range (s.me.rows .v)).findSome? fun i => (first i).map fun c => 64 * i + c).getD 1024)))

/-- PPACK (R250). -/
def execPpack (x : VW) (s : State) : Out1 := issue .v x.tk s fun s =>
  let c := s.me
  .ok (s.setMe ((List.range (c.rows .v)).foldl (fun acc i =>
    let p := c.prow x.a.val i
    acc.setVrow .v x.d.val i (p % 2 ^ 32 :: p / 2 ^ 32 :: (c.vrow .v x.d.val i).drop 2)) c))

/-- PUNPK (R250). -/
def execPunpk (x : VW) (s : State) : Out1 := issue .v x.tk s fun s =>
  let c := s.me
  .ok (s.setMe ((List.range (c.rows .v)).foldl (fun acc i =>
    let a := c.vrow .v x.a.val i
    acc.setProw x.d.val i (a.getD 0 0 + a.getD 1 0 * 2 ^ 32)) c))

/-! ### ATMRG (R251) -/

/-- m, α1 and α2 of two partials, with the flags of the subtractions. -/
def mergeScale (m1 l1 m2 l2 : Nat) : Nat × Nat × Nat × Nat :=
  let nan := nanCode .f32
  if [m1, l1, m2, l2].any fun y => (valOf .f32 y).isNan then (nan, nan, nan, 0)
  else
    let m := minMax .f32 true m1 m2
    let alpha (y : Nat) : Nat × Nat :=
      if (valOf .f32 y).same (valOf .f32 m) then (1065353216, 0)
      else
        let d := rndOf .f32 .rne false ((valOf .f32 y).add false (valOf .f32 m).neg)
        (expRn d.1, d.2)
    let a1 := alpha m1
    let a2 := alpha m2
    (m, a1.1, a2.1, a1.2 ||| a2.2)

/-- u × α1 + v × α2 with one rounding. A NaN among the four raises no flag, as in VFMA (R192, R193; log 13). -/
def mergeSum (u v a1 a2 : Nat) : Nat × Nat :=
  if [u, v, a1, a2].any fun x => (valOf .f32 x).isNan then (nanCode .f32, 0) else
  let p := (valOf .f32 u).mul (valOf .f32 a1)
  let q := (valOf .f32 v).mul (valOf .f32 a2)
  let r := p.1.add false q.1
  rndOf .f32 .rne false (r.1, p.2 ||| q.2 ||| r.2)

/-- ATMRG: `.o` (sub 0) merges the outputs, `.ml` (sub 1) the pairs. The flags of m1 - m and m2 - m belong to the elements that α1 and α2
scale: every active column of `.o`, column 1 of `.ml` (R192; DEDUCED, log 13). -/
def execAtmrg (x : VW) (s : State) : Out1 := issue .v x.tk s fun s =>
  let c := s.me
  let cols := c.cols .v
  let r := (List.range (c.rows .v)).foldl (fun (acc : Core × Nat) i =>
    let mask := c.prow x.pred.val i
    let p := c.vrow .v x.c.val i
    let old := c.vrow .v x.d.val i
    let o2 := c.vrow .v x.a.val i
    let g := mergeScale (p.getD 0 0) (p.getD 1 0) (p.getD 2 0) (p.getD 3 0)
    let new : List Elem := (List.range 64).map fun k =>
      if !decide (k < cols) then none
      else if !mask.testBit k then (if x.z then some (0, 0) else none)
      else if x.sub = 0 then some (mergeSum (old.getD k 0) (o2.getD k 0) g.2.1 g.2.2.1)
      else if k = 0 then some (canon .f32 g.1, 0)
      else if k = 1 then some (mergeSum (p.getD 1 0) (p.getD 3 0) g.2.1 g.2.2.1)
      else none
    let row := rowWith .f32 old new
    let scaled := if x.sub = 0 then !(columnsOf cols mask).isEmpty else decide (1 < cols) && mask.testBit 1
    (acc.1.setVrow .v x.d.val i row.1, acc.2 ||| row.2 ||| (if scaled then g.2.2.2 else 0))) (c, 0)
  .ok (s.setMe (r.1.raise .v r.2))

end Sys2Proof.Machine
end

