-- ==== Sys2Proof/Machine/Attention.lean ====
section
/-! DEFINITION. Partial attention over block lists and the linear-attention state: ATTP, ATTL and ATTF (R311 to R319, R337 to
R341). Flags raised in these sums are lost (R313). -/

namespace Sys2Proof.Machine

/-- A partial triple (m, l, o) as f32 codes (R313). -/
structure Triple where
  m : Nat
  l : Nat
  o : List Nat
  deriving DecidableEq, Repr

/-- A token of a block: its key and its value elements. -/
structure KvToken where
  key : List Val
  value : List Val
  deriving DecidableEq, Repr

def negInf : Nat := 0xFF800000

/-- rne into f32 of an exact value, its flags lost. -/
def rneOf (x : Val × Nat) : Nat := (rndOf .f32 .rne false x).1

/-- One query row over one slice's token sequence (R313). -/
def sliceTriple (q : List Val) (sigma : Val) (ts : List KvToken) : Triple :=
  let d := q.length
  let scores := ts.map fun t => rneOf (sigma.mul (valOf .f32 (foldInto (dot4 (q.zip t.key)) 0).1))
  if scores.all (· == negInf) then ⟨negInf, 0, List.replicate d 0⟩
  else if scores.any fun y => (valOf .f32 y).isNan || ((valOf .f32 y).isInf && !(valOf .f32 y).isNeg) then
    ⟨nanCode .f32, nanCode .f32, List.replicate d (nanCode .f32)⟩
  else
    let m := (scores.drop 1).foldl (fun m y => minMax .f32 true m y) (scores.headD negInf)
    let r := (scores.zip ts).foldl (fun (acc : Nat × List Nat) (x : Nat × KvToken) =>
      let p := expRn (rneOf ((valOf .f32 x.1).add false (valOf .f32 m).neg))
      ((addF32 acc.1 p).1,
        List.zipWith (fun o v =>
          let y := (valOf .f32 p).mul v
          let z := (valOf .f32 o).add false y.1
          rneOf (z.1, y.2 ||| z.2)) acc.2 x.2.value)) (0, List.replicate d 0)
    ⟨m, r.1, r.2⟩

/-- merge of R314 by the operator of ATMRG (R251). -/
def Triple.merge (t1 t2 : Triple) : Triple :=
  let g := mergeScale t1.m t1.l t2.m t2.l
  ⟨canon .f32 g.1, (mergeSum t1.l t2.l g.2.1 g.2.2.1).1,
    List.zipWith (fun a b => (mergeSum a b g.2.1 g.2.2.1).1) t1.o t2.o⟩

/-- Combination of two positions of the tree: absent with t gives t (R241). -/
def joinTriples : Option Triple → Option Triple → Option Triple
  | none, y => y
  | x, none => x
  | some x, some y => some (x.merge y)

def pairUp {α : Type} (f : α → α → α) : List α → List α
  | x :: y :: r => f x y :: pairUp f r
  | xs => xs

/-- The tree of R241 over 2^n positions. -/
def mergeTree : Nat → List (Option Triple) → Option Triple
  | 0, xs => xs.headD none
  | n + 1, xs => mergeTree n (pairUp joinTriples xs)

/-- The triple of one row over every slice (R314). -/
def rowTriple (q : List Val) (sigma : Val) (blocks : List (Nat × List KvToken)) : Triple :=
  let at_ (k : Nat) : Option Triple :=
    let mine := blocks.filter fun b => b.1 = k
    if mine.isEmpty then none else some (sliceTriple q sigma (mine.flatMap (·.2)))
  (mergeTree 8 ((List.range 256).map at_)).getD ⟨negInf, 0, List.replicate q.length 0⟩

/-- phi of R318. -/
def phi (x : Val) : Nat :=
  if x.isNan then nanCode .f32 else rneOf ((if x.isNeg then Val.zero else x).add false Val.one)

/-- Block type of a code (R337, R341). -/
def kvType (code : Nat) : Ty := match code with | 0 => .f32 | 1 => .bf16 | _ => .f16

/-- The resolved bits lie in the partition's DRAM inside one interleave granule (R311, R339): their slice. -/
def State.oneSlice (s : State) (gs : List Seg) (aligned : Bool) (va : Word) : Except Stop Nat :=
  match gs.find? (isRemote s) with
  | some g => fail .access (wOf g.1)
  | none =>
    let g0 := (gs.headD (0, 0)).1 / 8 / 262144
    if aligned && gs.all fun g => s.region (g.1 / 8) == .dram && g.1 / 8 / 262144 == g0 && (g.1 + g.2 - 1) / 8 / 262144 == g0
    then .ok (sliceOf (g0 * 262144)) else fail .blockPlace va

/-- Some page of a range leads to a domain remote window, its own module's among them (R20, R24). -/
def State.leadsRemote (s : State) (va n : Nat) : Bool :=
  (pagePieces va n).any fun x => match s.pageOf s.me.mode s.me.part (x.1 / 524288) .none with
    | .ok base => s.region (base + x.1 % 524288 / 8) == .remote
    | .error _ => false

/-- The bits of the block that an entry names (R311, R312). -/
def blockSpan (entry : Word) (t : Ty) (d : Nat) : List (Nat × Nat) := [(wField entry 0 58, 32 * d * t.width)]
def nothingElse (_ : Nat) : List (Nat × Nat) := []

/-- Where the block of a used entry lies: its slice (R311). -/
def State.blockSlice (s : State) (entry : Word) (gs : List Seg) : Except Stop Nat :=
  s.oneSlice gs (wField entry 0 58 % 1024 == 0) (wOf (wField entry 0 58))

/-- A block's valid tokens (R311, R312). -/
def State.blockTokens (s : State) (entry : Word) (t : Ty) (d : Nat) : Except Stop (List KvToken × State) := do
  let r ← s.load .read (wField entry 0 58) (32 * d * t.width)
  let el (i : Nat) : Val := valOf t (field r.1 (i * t.width) t.width)
  let row (base j : Nat) : List Val := (List.range d).map fun c => el (base + j * d + c)
  .ok ((List.range (wField entry 58 4 + 1)).map fun j => ⟨row 0 j, row (16 * d) j⟩, r.2)

/-- The checks of used entries and their blocks in the order of R172: pages and where they lead for all of them, then each entry's reserved
bit and its block's place (R311, R312, R356). -/
def State.checkBlocks (s : State) (used : List Word) (t : Ty) (d : Nat) : Except Stop (List Nat) := do
  let gss ← s.resolve .read (used.flatMap fun e => blockSpan e t d)
  match used.find? fun e => s.leadsRemote (wField e 0 58) (32 * d * t.width) with
  | some e => fail .access (wOf (wField e 0 58))
  | none => pure ()
  mapEach (fun (x : Word × List Seg) => do
    need (!x.1.getLsbD 62) .blockList x.1
    s.blockSlice x.1 x.2) (used.zip gss)

/-- An attention descriptor (R337). -/
structure Attn where
  list : Word
  entries : Nat
  type : Nat
  dim : Nat
  rows : Nat
  sigma : Nat
  bank : Nat
  word : Nat
  deriving DecidableEq, Repr

def attnOf (x : Nat) : Attn where
  list := wOf (field x 0 64)
  entries := field x 64 16
  type := field x 80 4
  dim := field x 88 8
  rows := field x 96 4 + 1
  sigma := field x 128 32
  bank := field x 192 4
  word := field x 196 16

def dimOk (d : Nat) : Bool := d % 16 == 0 && decide (16 ≤ d) && decide (d ≤ 128)

/-- Reserved fields and ranges of a descriptor of ATTP (`list`) or ATTL (R337). -/
def attnOk (x : Nat) (list : Bool) : Bool :=
  let a := attnOf x
  dimOk a.dim && field x 84 4 == 0 && field x 100 28 == 0 && field x 160 32 == 0 && field x 212 44 == 0 && field x 256 256 == 0 &&
    (if list then decide (a.type ≤ 2) else a.entries == 0 && a.type == 0 && a.sigma == 0)

/-- The descriptor of ATTP or ATTL, with the checks of R339 that need nothing more. -/
def State.descriptor (s : State) (x : MW) (list : Bool) : Except Stop (Attn × State) := do
  need ((s.rd x.a).toNat % 512 == 0) .alignment (s.rd x.a)
  let r ← State.loadRecord s (s.rd x.a) 512 512
  let a := attnOf r.1
  need (a.list.toNat % (if list then 64 else 512) == 0) .alignment a.list
  need (attnOk r.1 list) .layout (s.rd x.a)
  need (!(decide (64 < a.dim) && (x.d.val % 2 == 1 || x.b.val == x.d.val + 1)) && x.b != x.d) .layout (s.rd x.a)
  need (decide (a.word + a.rows * a.dim ≤ 65536)) .localRange (s.rd x.a)
  .ok (a, r.2)

/-- Query row i (R337). -/
def State.query (s : State) (a : Attn) (i : Nat) : List Val :=
  (List.range a.dim).map fun c => valOf .f32 (s.me.bankBits a.bank (32 * (a.word + i * a.dim + c)) 32)

/-- Replaces the lanes of a row from column k on. -/
def putLanes (old : List Nat) (k : Nat) (xs : List Nat) : List Nat := old.take k ++ xs ++ old.drop (k + xs.length)

/-- Writes the triple of row i (R338). -/
def Core.putTriple (c : Core) (x : MW) (i : Nat) (t : Triple) : Core :=
  let c := c.setVrow .f x.d.val i (putLanes (c.vrow .f x.d.val i) 0 (t.o.take 64))
  let c := if t.o.length ≤ 64 then c else c.setVrow .f (x.d.val + 1) i (putLanes (c.vrow .f (x.d.val + 1) i) 0 (t.o.drop 64))
  c.setVrow .f x.b.val i (putLanes (c.vrow .f x.b.val i) (if x.ofs.val % 2 = 1 then 2 else 0) [t.m, t.l])

def State.putTriples (s : State) (x : MW) (ts : List Triple) : State :=
  s.setMe (ts.zipIdx.foldl (fun c (t, i) => c.putTriple x i t) s.me)

/-- The blocks that the used entries of a block list name, in list order, each with its slice; every check comes before the first block is
read (R311, R312, R339, R356). -/
def State.blocks (s : State) (a : Attn) : Except Stop (List (Nat × List KvToken) × State) := do
  let at_ ← State.addrOk a.list.toNat (64 * a.entries)
  let r ← s.load .read at_ (64 * a.entries)
  let used := ((unpack 64 a.entries r.1).map wOf).filter fun e => e.getLsbD 63
  let slices ← r.2.checkBlocks used (kvType a.type) a.dim
  eachM (fun (acc : List (Nat × List KvToken) × State) (x : Word × Nat) => do
    let y ← acc.2.blockTokens x.1 (kvType a.type) a.dim
    .ok (acc.1 ++ [(x.2, y.1)], y.2)) (used.zip slices) ([], r.2)

/-- ATTP (R313 to R316, R338, R339). -/
def execAttp (x : MW) (s : State) : Out1 := issue .f x.tk s fun s => do
  let (a, s) ← s.descriptor x true
  let b ← s.blocks a
  .ok (b.2.putTriples x ((List.range a.rows).map fun i => rowTriple (b.2.query a i) (valOf .f32 a.sigma) b.1))

/-- Bytes of a state of dimension d (R317). -/
def stateBytes (d : Nat) : Nat := 64 + 4 * d * d + 4 * d

/-- A state record read whole at its home slice: its words from the header on, once DIM and the reserved fields hold and the
state and what else the instruction reads translate (R317, R339, R341, R356). -/
def State.linear (s : State) (n : Need) (va : Word) (dim : Option Nat) (also : Nat → List (Nat × Nat)) :
    Except Stop (Nat × List Nat × State) := do
  let at_ ← State.addrOk va.toNat 512
  let h ← s.load n at_ 512
  let d := field h.1 0 8
  need (dimOk d && (dim.isNone || dim == some d) && field h.1 8 56 == 0 && field h.1 128 384 == 0) .layout va
  let at_ ← State.addrOk va.toNat (8 * stateBytes d)
  let gss ← h.2.resolve n [(at_, 8 * stateBytes d)]
  let bss ← h.2.resolve .read (also d)
  match (gss ++ bss).flatten.find? (isRemote s) with
  | some g => fail .access (wOf g.1)
  | none => pure ()
  let _ ← s.oneSlice (gss.headD []) true va
  let r ← h.2.load n at_ (8 * stateBytes d)
  .ok (d, unpack 32 (stateBytes d / 4) r.1, r.2)

/-- ATTL (R319, R338, R339): a state with NTOK = 0 is empty, whatever its words hold. -/
def execAttl (x : MW) (s : State) : Out1 := issue .f x.tk s fun s => do
  let (a, s) ← s.descriptor x false
  let (d, ws, s) ← s.linear .read a.list (some a.dim) nothingElse
  let m (i : Nat) : Val := valOf .f32 (ws.getD (16 + i) 0)
  let dot (f : List Val) (g : Nat → Val) : Nat := (foldInto (dot4 (f.zip ((List.range d).map g))) 0).1
  .ok (s.putTriples x ((List.range a.rows).map fun i =>
    let f := (s.query a i).map fun q => valOf .f32 (phi q)
    if ws.getD 2 0 == 0 && ws.getD 3 0 == 0 then ⟨0, 0, List.replicate d 0⟩
    else ⟨0, dot f fun k => m (d * d + k), (List.range d).map fun c => dot f fun k => m (k * d + c)⟩))

/-- One token folded into the words S and z of a state (R318). -/
def foldToken (d : Nat) (ws : List Nat) (t : KvToken) : List Nat :=
  let f := t.key.map phi
  let sNew := (List.range (d * d)).map fun i =>
    let y := (valOf .f32 (f.getD (i / d) 0)).mul (t.value.getD (i % d) Val.zero)
    let z := (valOf .f32 (ws.getD i 0)).add false y.1
    rneOf (z.1, y.2 ||| z.2)
  sNew ++ (List.range d).map fun k => (addF32 (ws.getD (d * d + k) 0) (f.getD k 0)).1

/-- ATTF (R318, R341). -/
def execAttf (x : MW) (s : State) : Out1 := issue .w x.tk s fun s =>
  let e := s.rd x.b
  let va := s.rd x.a
  if !e.getLsbD 63 then .ok s
  else do
    need (va.toNat % 512 == 0) .alignment va
    need (!e.getLsbD 62) .layout e
    let (d, ws, s1) ← s.linear .both va none (blockSpan e (kvType x.sub.val))
    let _ ← s1.checkBlocks [e] (kvType x.sub.val) d
    let b ← s1.blockTokens e (kvType x.sub.val) d
    let ts := b.1
    let body := ts.foldl (foldToken d) (ws.drop 16)
    let ntok := (ws.getD 2 0 + ws.getD 3 0 * 2 ^ 32 + ts.length) % 2 ^ 64
    let head := [ws.getD 0 0, ws.getD 1 0, ntok % 2 ^ 32, ntok / 2 ^ 32] ++ List.replicate 12 0
    let gss ← b.2.resolve .both [(va.toNat, 8 * stateBytes d)]
    b.2.writeSegs (gss.headD []) (pack 32 (head ++ body))

end Sys2Proof.Machine
end

