-- ==== Sys2Proof/Machine/Sched.lean ====
section
/-! DEFINITION. The launch queues: which issues are ready, borrowing, and when an issue may and must come (R261, R265, R266, R268,
R271 to R274). -/

namespace Sys2Proof.Machine

/-- The reserved fields of a launch record (R261). -/
def recordFields (ws : List Word) : Bool :=
  let ctl := ws.getD 2 0
  let dep := ws.getD 5 0
  wField ctl 9 7 == 0 && wField ctl 48 16 == 0 && wField (ws.getD 3 0) 32 32 == 0 &&
    (if dep.getLsbD 63 then wField dep 54 9 == 0 else dep == 0) &&
    (if ctl.getLsbD 8 then wField (ws.getD 6 0) 32 32 == 0 else ws.getD 6 0 == 0 && ws.getD 7 0 == 0)

/-- Free slots of a partition's slot area (R391). -/
def State.freeSlots (s : State) (p : Nat) : List Nat :=
  let used := s.sched.launches.flatMap fun x => if x.1 < 1024 && x.2.part == p then x.2.slots else []
  (List.range (wField (s.partCsr p 276) 0 16)).filter fun i => !used.contains i

/-- The dependence of a record is met: FIN of its queue has passed the record it names, and that record's launch runs no more, where a reset has
counted later records before it (R264, R265). -/
def State.depMet (s : State) (i : Nat) (ws : List Word) : Bool :=
  let dep := ws.getD 5 0
  let j := i / 64 * 64 + wField dep 0 6
  !dep.getLsbD 63 || j == i || (decide (wField dep 6 48 < (s.queue j).fin) &&
    match s.launch j with | some l => l.seq != wField dep 6 48 | none => true)

/-- A completion arrival of a launch of the queue still waits to be counted, here or on another module (R268). -/
def State.arrivalWaits (s : State) (i : Nat) : Bool :=
  (s.queue i).arrivals.any fun y =>
    (s.memory.arrivals.any fun a => a.who == .completion && a.part == i / 64 && a.ref == y.1 && a.phase == y.2) ||
      s.edge.remotes.any fun a => a.part == i / 64 && a.ref == y.1 && a.phase == y.2

/-- Queue i has an issue ready: a release of a held launch, or a start (R266, R274, R391). A pre-emption that is pending strikes a held
launch at once (R279). -/
def State.issueReady (s : State) (i : Nat) : Bool :=
  match s.launch i with
  | some l => l.phase == .held && !l.arrived.isEmpty && l.preempt == .none && l.moving.isEmpty
  | none =>
    match (s.queue i).pending with
    | [] => false
    | (_, ws) :: _ => s.depMet i ws && !s.arrivalWaits i &&
      (!recordFields ws || decide (wField (ws.getD 2 0) 0 8 + 1 ≤ (s.freeSlots (i / 64)).length))

def Queue.pri (q : Queue) : Nat := wField q.cfg 1 2
def Queue.allow (q : Queue) : Nat := wField q.cfg 32 32

/-- R272: what a queue that may borrow draws from the pool while it waits without allowance, once. -/
def State.borrowOnce (s : State) (i : Nat) : State :=
  let q := s.queue i
  if !q.cfg.getLsbD 4 || decide (0 < q.balance) then s
  else
    let x := min (min q.allow s.sched.pool) (4 * q.allow - q.debt)
    { s.setQueue i { q with balance := q.balance + x, debt := q.debt + x } with
      sched := { (s.setQueue i { q with balance := q.balance + x, debt := q.debt + x }).sched with pool := s.sched.pool - x } }

/-- A queue that waits for an issue without allowance borrows, and again while that has not sufficed: its debt reaches its cap of four
allowances within five draws (R272). -/
def State.borrow (s : State) (i : Nat) : State := (List.range 5).foldl (fun s _ => s.borrowOnce i) s

/-- Order by priority, then partition and queue (R272). -/
def State.byPriority (s : State) (is : List Nat) : List Nat :=
  (List.range 4).flatMap fun k => is.filter fun i => (s.queue i).pri == k

/-- The queues that have an issue ready, in order. -/
def State.readyQueues (s : State) : List Nat := (s.sched.queues.map (·.1)).filter s.issueReady

/-- Queues note since when they are ready, and those without allowance borrow, within the same cycle (R272, R273). -/
def State.readied (s : State) : State :=
  if s.sched.queues.isEmpty then s
  else
    let ready := s.readyQueues
    let note (x : Nat × Queue) : Nat × Queue :=
      (x.1, { x.2 with since := if ready.contains x.1 then x.2.since.or (some s.ccnt) else none })
    (s.byPriority ready).foldl State.borrow { s with sched := { s.sched with queues := s.sched.queues.map note } }

/-- The ready queues that have allowance (R271). -/
def State.issuable (s : State) : List Nat := s.readyQueues.filter fun i => decide (0 < (s.queue i).balance)

/-- Cycles before the next issue may come: issues are at least 16 apart (R273). -/
def State.issueGap (s : State) : Nat := match s.sched.lastIssue with | some t => 16 - (s.ccnt - t).toNat | none => 0

/-- Cycles before an issue must come: each ready queue with allowance issues within the period (R273, R281). -/
def State.issueSlack (s : State) : Option Nat :=
  match s.issuable.length with
  | 0 => none
  | n + 1 => some (max s.issueGap (Config.periodCycles - s.ccnt.toNat % Config.periodCycles - 16 * (n + 2)))

end Sys2Proof.Machine
end

