-- ==== Sys2Proof/Machine/Fetch.lean ====
section
/-! DEFINITION. Whose turn it is, the fetch of an instruction's words and the walk of the engines over one text (R30 to R33,
R104, R106). -/

namespace Sys2Proof.Machine

/-- Core k has a task that may run. -/
def State.runnable (s : State) (k : CoreId) : Bool :=
  let c := s.core k
  c.owner.isSome && (c.stopped.isNone || isGhost k) && !(k == rootId && s.edge.rootStopped) && !s.edge.inReset.contains k

/-- The core after `cur` in ascending order, round the module, that may run (log 1). -/
def State.nextCore (s : State) : CoreId :=
  let ks := (s.cores.map (·.1)).filter s.runnable
  ((ks.find? fun k => decide (s.cur < k)).orElse fun _ => ks.head?).getD s.cur

/-- Charged tasks of a launch: those that stand neither at STEP nor at END, unless it is held, pre-empted or in its
communication step (R270). -/
def Launch.chargedTasks (l : Launch) : Nat :=
  if l.phase = .running && l.preempt != .saved then l.n - l.arrived.length - l.ended.length else 0

/-- Cycles that a pending pre-emption of a running superstep waits for a boundary: 50 µs (R279). -/
def boundaryWait : Nat := 90000

/-- The request of a pending pre-emption is 50 µs old (R279). -/
def State.overdue (s : State) (l : Launch) : Bool := l.preempt == .pending && decide (boundaryWait ≤ (s.ccnt - l.asked).toNat)

/-- The next cycle is a period boundary (R271). -/
def State.lastCycle (s : State) : Bool := s.ccnt.toNat % Config.periodCycles == Config.periodCycles - 1

/-- Cycles that may pass before the next turn: up to a watchdog limit (R278), a forced pre-emption (R279) or an issue that must come in this
period (R273), and up to the last cycle of a period, whose boundary is then reached alone (R271). -/
def State.room (s : State) : Nat :=
  min (s.issueSlack.getD (2 ^ 64)) <| s.sched.launches.foldl (fun n (id, l) =>
    let n := if id < 1024 && l.wdg != 0 && l.chargedTasks != 0 && decide (l.charged < 1800 * l.wdg) then min n (1800 * l.wdg - l.charged) else n
    if l.preempt == .pending && !s.overdue l then min n (boundaryWait - (s.ccnt - l.asked).toNat) else n)
    (min (if s.lastCycle then 1 else Config.periodCycles - 1 - s.ccnt.toNat % Config.periodCycles) (2 ^ 64 - s.ccnt.toNat))

/-- x cycles pass, but never beyond that room: CCNT counts, and running launches are charged (R13, R270, R278). A boundary that is
reached falls due (R271). -/
def State.elapse (s : State) (x : Nat) : State :=
  let x := min x s.room
  let c := s.ccnt + wOf x
  let s := { s with ccnt := c, due := s.due || (x != 0 && c.toNat % Config.periodCycles == 0) }
  s.sched.launches.foldl (fun s (id, l) =>
    let n := l.chargedTasks
    if id < 1024 && n ≠ 0 then
      let q := s.queue id
      (s.setQueue id { q with balance := q.balance - x * n }).setLaunch id { l with charged := l.charged + x }
    else s) s

/-- A task of the launch stands neither at STEP nor at END and has not stopped. -/
def State.lagging (s : State) (id : LaunchId) (l : Launch) : Bool :=
  s.sched.tasks.any fun x => x.2.launch == id && !l.arrived.contains x.2.role && !l.ended.contains x.2.role &&
    (s.core x.2.core).stopped.isNone

/-- The watchdog limit of a launch has run out (R278). -/
def State.expired (s : State) (id : LaunchId) (l : Launch) : Bool :=
  l.wdg != 0 && decide (1800 * l.wdg ≤ l.charged) && l.phase == .running && l.preempt != .saved && s.lagging id l

/-- The launch of a task that stands stopped on a replay-divergence fault, on its unit or saved (R398). -/
def State.diverged (s : State) : Option LaunchId :=
  let stands (t : TaskId) : Option LaunchId :=
    match s.task t with
    | some x => match s.launch x.launch with | some l => if x.launch < 1024 && l.ending.isNone then some x.launch else none | none => none
    | none => none
  ((s.cores.filterMap fun x => if x.2.stopped == some Cls.divergence.code then x.2.owner else none) ++
    s.sched.tasks.filterMap fun x => if (x.2.saved.bind (·.2)) == some Cls.divergence.code then some x.1 else none).findSome? stands

/-- How a pending pre-emption of launch `id` strikes: a hand-over in progress is completed first (R280). -/
def Launch.strikeNow (l : Launch) (id : LaunchId) : Instr :=
  match l.moving with
  | [] => .preemptionStrike id
  | m :: _ => .handOverCopyDone (id * 256 + m.1) .done

/-- The event that must come before any other turn: the abort of a launch whose replay has diverged (R398), a watchdog limit, to which a pending
pre-emption is preferred (R278, R280), a period boundary (R271), an issue without which a ready queue with allowance would miss its period (R273),
or a pre-emption that has waited 50 µs for a boundary (R279). -/
def State.pressing (s : State) : Option Instr :=
  match s.diverged, s.sched.launches.find? fun x => s.expired x.1 x.2 with
  | some id, _ => some (.launchAbort (PartId.ofNat (id / 64)) (Fin.ofNat 64 id))
  | none, some x => some (if x.2.preempt = .pending then x.2.strikeNow x.1 else .watchdogFault x.1)
  | none, none =>
    if s.due then some .periodBoundary
    else if s.issueSlack == some 0 then some .schedulerIssue
    else (s.sched.launches.find? fun x => s.overdue x.2).map fun x => x.2.strikeNow x.1

/-- The device takes its next event before an engine's turn: freely, and always while the module has no power (log 2). -/
def State.eventFirst (s : State) : Bool := !s.agenda.isEmpty && (!s.edge.powered || s.choose 2 2 == 0)

/-- The core and engine of the next turn, and the event if it is not the engine's own turn: a pressing event, a period boundary that
this turn's cycles reach, the first of the agenda, or the next engine of the round (R263, R271; log 1). -/
def State.takeTurn (s : State) : Option Instr × State :=
  let s := { s with turns := s.turns + 1 }.readied
  match if s.edge.powered then s.pressing else none with
  | some i => (some i, { s with due := s.due && i != .periodBoundary })
  | none =>
    let t := s.elapse (Config.elapsed s.turns)
    if s.edge.powered && s.lastCycle && t.due then (some .periodBoundary, { t with due := false })
    else match s.agenda, s.eventFirst with
      | (i, k, e) :: rest, true => (i, { t with agenda := rest, cur := k, eng := e })
      | _, _ =>
        let t := { t with eng := t.next, next := t.next.after }
        (none, if t.eng = .f then { t with cur := t.nextCore } else t)

/-- The word at a virtual bit address of the running core, with fetch permission, from the highest copy of a residency object (R32, R289,
R368), and the state in which what it read is scrubbed (R402). -/
def State.fetchRead (s : State) (a : Word) : Except Stop (Nat × List Seg × State) := do
  let gss ← s.resolve .fetch [(a.toNat, 32)]
  let r ← s.readPages a.toNat 32 (gss.headD [])
  .ok (r.1, gss.headD [], r.2)

/-- The values that the word at byte address 4w has had since the running task began, and has no more (R34). -/
def State.formerWords (s : State) (w : Nat) : List Nat :=
  match s.taskOf s.cur with
  | some (_, x, _) => ((s.memory.oldText.get [] w).filter fun y => y.1 == x.launch).map (·.2)
  | none => []

/-- The word that the running engine fetches: of a word of its task's text that has been written, its new value or an old one, freely (R34;
log 2). -/
def State.fetchWord (s : State) (a : Word) : Except Stop Nat := do
  let (w, gs, _) ← s.fetchRead a
  let old := if s.memory.oldText.isEmpty then [] else s.formerWords ((gs.headD (0, 0)).1 / 32)
  .ok (if old.isEmpty then w else (w :: old).getD (s.choose (1048576 + a.toNat / 32) (old.length + 1)) w)

/-- The words that the running engine has fetched at its pc are scrubbed, and pending rows they lie in are cleared (R379, R402). -/
def State.fetched (s : State) : State :=
  if s.memory.check.isEmpty && s.memory.clrRows.isEmpty then s
  else
    let a := s.me.pc.get s.eng
    match s.fetchRead a with
    | .error _ => s
    | .ok (w, _, t) =>
      let two := match tagEngine (engTag w) with | some e => e == s.eng | none => wordCount w == 2
      if two then match t.fetchRead (a + 32) with | .ok (_, _, u) => u | .error _ => t else t

/-- What an engine makes of the word at its pc (R30): an instruction to execute, a step of the walk, or a fault. -/
inductive Fetched where
  | instr (i : Instr)
  | stop (t : Stop)
  deriving DecidableEq, Repr

/-- Whether an engine executes a word with this tag, looks no further than its length, or must refuse it (R30). An X long word with token
bits set is refused before its word 1 is fetched, so that check 3 of R40 comes before a fetch fault on that word (DESIGN CHOICE, log 13). -/
def State.fetch (s : State) : Fetched :=
  let a := s.me.pc.get s.eng
  match s.fetchWord a with
  | .error t => .stop t
  | .ok w0 =>
    let tag := engTag w0
    match tagEngine tag with
    | some e =>
      if e ≠ s.eng then .instr (.skipWord (wordCount w0 == 2))
      else if wordCount w0 = 1 then .instr (.illegalInstruction s.eng .shortWord)
      else match s.fetchWord (a + 32) with
        | .error t => .stop t
        | .ok w1 =>
          match decodeWords w0 w1 with
          | .ok i => .instr i
          | .error x => .instr (.illegalInstruction s.eng x)
    | none =>
      if tag = 0 && wordCount w0 = 2 && w0 / 268435456 = 0 then
        match s.fetchWord (a + 32) with
        | .error t => .stop t
        | .ok w1 =>
          match decodeWords w0 w1 with
          | .ok i => .instr i
          | .error x => .instr (.illegalInstruction s.eng x)
      else match decodeWords w0 0 with
        | .ok i => .instr i
        | .error x => .instr (.illegalInstruction s.eng x)

/-- What the engine whose turn it is does: nothing while it stands or waits, a push it owes, or its next word. -/
inductive Turn where
  | idle (s : State)
  | run (i : Instr) (s : State)
  deriving DecidableEq, Repr

/-- What an engine that stands at a meeting sets off: the next command of its launch's communication step, or the issue for
which its launch is held (R120, R273; log 1). -/
def State.standingTurn (s : State) : Turn :=
  match s.taskOf s.cur with
  | some (_, x, l) =>
    match l.phase with
    | .comm => .run (.bteCommand x.launch) s
    | .held => if x.launch < 1024 then .run .schedulerIssue s else .idle s
    | .running => .idle s
  | none => .idle s

/-- A failed access belongs to the instruction that made it: it is forgotten when the engine has gone on (R309, R449). -/
def State.inTime (s : State) : State :=
  if s.edge.late.isEmpty then s
  else s.setEdge { s.edge with late := s.edge.late.filter fun x => x.core != s.cur || x.eng != s.eng || x.pc == s.me.pc.get s.eng }

/-- The running engine holds the words of an instruction that it has fetched at its pc, or of none. -/
def State.hold (s : State) (i : Option Instr) : State :=
  s.setMe { s.me with held := s.me.held.set s.eng (i.map fun i => (s.me.pc.get s.eng, i)), wait := s.me.wait.set s.eng .run }

/-- The instruction or fault of an engine that may issue. One that waits is not fetched again: its words were fetched, and translated, before it
issued (R32, R34). -/
def State.issueTurn (s : State) : Turn :=
  let s := s.inTime
  match s.me.heldAt s.eng with
  | some i => .run i (s.hold (some i))
  | none =>
    match s.fetch with
    | .instr i => .run i (s.hold (some i)).fetched
    | .stop (.trap t) => .idle (s.takeFault s.cur s.eng t)
    | .stop (.wait s') => .idle ((s'.hold none).setWait s'.cur s'.eng .memory)

/-- The turn of an unretired instruction of a saved task: it goes on, and what it leaves, or its fault, goes into the image (R407). -/
def State.ghostTurn (s : State) : Turn :=
  match s.taskOf s.cur, s.me.stopped, s.me.wait.get s.eng with
  | none, _, _ => .idle s
  | some (_, x, _), some _, _ => .run (.preemptionDeadline x.launch) s
  | some _, none, .memory => s.issueTurn
  | some (_, x, _), none, .run => .run (.preemptionDeadline x.launch) s
  | some (_, x, _), none, .push _ => .run (.preemptionDeadline x.launch) s
  | some _, none, _ => .idle s

/-- A word of the core's task-local state is uncorrectable (R405). -/
def State.tornWord (s : State) (k : CoreId) : Bool := s.edge.sramErr.any fun x => x.1 == k && !x.2.2 && decide (x.2.1 < 8388608)

/-- The engine that a fault of no single instruction names. -/
def Core.firstRunning (c : Core) : Eng := (Eng.all.find? fun e => c.wait.get e != .ended).getD .f

/-- A task that stops away from its barrier has not arrived there. -/
def State.unarrive (s : State) (k : CoreId) : State :=
  match s.taskOf k with
  | some (_, x, l) =>
    if l.phase = .running then s.setLaunch x.launch { l with arrived := l.arrived.filter (· != x.role) } else s
  | none => s

/-- A task that stops in the communication step of its launch takes the launch out of it: what is left of the step comes when the task, replayed,
has arrived again (R397, R405; DESIGN CHOICE, log 17). -/
def State.leaveStep (s : State) (k : CoreId) : State :=
  match s.taskOf k with
  | some (_, x, l) =>
    if l.phase = .comm && l.arrived.contains x.role then
      s.setLaunch x.launch { l with phase := .running, arrived := l.arrived.filter (· != x.role) }
    else s.unarrive k
  | none => s

/-- An uncorrectable SRAM word of a unit stops its task, whose replay brings the word back (R405). -/
def State.tornFault (s : State) (k : CoreId) : State :=
  let s := s.setEdge { s.edge with sramErr := s.edge.sramErr.filter fun x => x.1 != k || (!x.2.2 && decide (8388608 ≤ x.2.1)) }
  (s.leaveStep k).takeFault k (s.core k).firstRunning (mkTrap .storage)

/-- The turn of the running engine (R99, R104, R106, R405); a throttle stalls it at times the model leaves free (R454). -/
def State.turn (s : State) : Turn :=
  let c := s.me
  if !s.runnable s.cur || (s.edge.throttle && s.choose 5 2 == 0) then .idle s
  else if isGhost s.cur then s.ghostTurn
  else if s.tornWord s.cur then .run (.sramScrub s.cur) s
  else if c.deadlocked then .run .tokenDeadlockFault s
  else match c.wait.get s.eng with
    | .ended | .meet _ => s.standingTurn
    | .push _ => .run (.tokenPush s.eng) s
    | w => if (w == .run || w == .slip) && c.slipStall s.eng then .idle (s.setWait s.cur s.eng .slip) else s.issueTurn

/-- Places bytes where the running core's pc points in root mode, which translates nothing (R411). -/
def State.placeText (s : State) (bs : List Byte) : State :=
  s.setMemory { s.memory with bytes := s.memory.bytes.splice 0 ((s.me.pc.get s.eng).toNat / 8) bs }

end Sys2Proof.Machine
end

