-- ==== Sys2Proof/Machine/Starter.lean ====
section
/-! DEFINITION. The Starter trees: seeks, deposits, pins, drops, evictions and the end of a launch (R322 to R329, R345 to R349,
R358). A tree lies in the Starter region of memory. -/

namespace Sys2Proof.Machine

/-- A node (R323). -/
structure Node where
  hash : Nat
  parent : Nat
  fchild : Nat
  sib : Nat
  ref : Nat
  stamp : Nat
  toks : Nat
  flags : Nat
  kvl : Nat
  kvn : Nat
  depth : Nat
  rst : Nat
  rsl : Nat
  owner : Nat
  deriving DecidableEq, Repr

def noNode : Nat := 4294967295

def nodeOf (x : Nat) : Node :=
  ⟨field x 0 64, field x 64 32, field x 96 32, field x 128 32, field x 160 32, field x 192 64, field x 256 64, field x 320 64,
    field x 384 64, field x 448 32, field x 480 32, field x 512 64, field x 576 64, field x 640 64⟩

def Node.bytes (n : Node) : List Byte :=
  bytesOfNat 8 n.hash ++ bytesOfNat 4 n.parent ++ bytesOfNat 4 n.fchild ++ bytesOfNat 4 n.sib ++ bytesOfNat 4 n.ref ++
    bytesOfNat 8 n.stamp ++ bytesOfNat 8 n.toks ++ bytesOfNat 8 n.flags ++ bytesOfNat 8 n.kvl ++ bytesOfNat 4 n.kvn ++
    bytesOfNat 4 n.depth ++ bytesOfNat 8 n.rst ++ bytesOfNat 8 n.rsl ++ bytesOfNat 8 n.owner

def Node.used (n : Node) : Bool := n.flags.testBit 0
def Node.prov (n : Node) : Bool := n.flags.testBit 1

/-- A tree, named by the byte address of its header (R322). -/
abbrev Tree := Nat

def treeAt (p t : Nat) : Tree := starterBase + p * 268435456 + t * 16777216

/-- A number of n bytes of the Starter region. -/
def State.peekN (s : State) (a n : Nat) : Nat := s.numAt a n
/-- Writes bytes of the Starter region; their sectors carry their own code again (R401). -/
def State.poke (s : State) (a : Nat) (xs : List Byte) : State :=
  s.setMemory { s.memory with
    bytes := s.memory.bytes.splice 0 a xs
    check := if s.memory.check.isEmpty then [] else (sectorsOf a xs.length).foldl (fun c k => c.put 0 k 0) s.memory.check }

def State.nodeCap (s : State) (tr : Tree) : Nat := s.peekN (tr + 8) 8
def State.pageCap (s : State) (tr : Tree) : Nat := s.peekN (tr + 24) 8
/-- Tokens of a segment (R322). -/
def State.segTokens (s : State) (tr : Tree) : Nat := 16 * 2 ^ (s.peekN tr 8 % 8)
/-- Scheduler firmware has created the tree. -/
def State.created (s : State) (tr : Tree) : Bool := decide (s.peekN tr 8 % 8 ≤ 4) && s.nodeCap tr != 0
def State.node (s : State) (tr : Tree) (i : Nat) : Node := nodeOf (s.peekN (tr + 1048576 + 128 * i) 128)
def State.putNode (s : State) (tr : Tree) (i : Nat) (n : Node) : State := s.poke (tr + 1048576 + 128 * i) n.bytes
def State.pageCount (s : State) (tr : Tree) (k : Nat) : Nat := s.peekN (tr + 4096 + 4 * k) 4
def State.setPageCount (s : State) (tr : Tree) (k n : Nat) : State := s.poke (tr + 4096 + 4 * k) (bytesOfNat 4 n)

/-- Adds to MISS (offset 0x20) or EVCT (offset 0x28) of a header. -/
def State.bump (s : State) (tr : Tree) (o n : Nat) : State := s.poke (tr + o) (bytesOfNat 8 (s.peekN (tr + o) 8 + n))

/-- Node i of a tree lies in an uncorrectable sector (R404). -/
def State.badNode (s : State) (tr : Tree) (i : Nat) : Bool := s.badSector (tr + 1048576 + 128 * i) 128

/-- The sectors of a tree that carry check bytes of their own. -/
def State.treeChecks (s : State) (tr : Tree) : List Nat :=
  (s.memory.check.map (·.1)).filter fun k => decide (tr ≤ 16 * k) && decide (16 * k < tr + 16777216)

/-- A sector of the tree is uncorrectable. -/
def State.treeTorn (s : State) (tr : Tree) : Bool := (s.treeChecks tr).any fun k => s.badSector (16 * k) 16

/-- What the code corrects of a tree is corrected before an operation reads it (R402). -/
def State.tookTree (s : State) (tr : Tree) : State := s.scrubSectors (s.ownerOf tr) (s.treeChecks tr)

/-- The nodes of a tree with USED = 1, in ascending index. -/
def State.usedNodes (s : State) (tr : Tree) : List Nat :=
  let base := tr + 1048576
  s.memory.bytes.filterMap fun x =>
    if base ≤ x.1 ∧ x.1 < base + 15728640 ∧ (x.1 - base) % 128 = 40 ∧ x.2.getLsbD 0 = true then some ((x.1 - base) / 128) else none

/-- Key of a tree in the list of freed nodes. -/
def treeKey (tr : Tree) : Nat := (tr - starterBase) / 16777216

/-- The nodes from `i` on in sibling order; an index outside the region ends the list (log 15). -/
def State.siblings (s : State) (tr : Tree) : Nat → Nat → List Nat
  | 0, _ => []
  | fuel + 1, i => if 122880 ≤ i then [] else i :: s.siblings tr fuel (s.node tr i).sib

def State.kids (s : State) (tr : Tree) (i : Nat) : List Nat := s.siblings tr 122880 (s.node tr i).fchild

/-- The chained hash (R324). -/
def chainHash (h : Nat) (ids : List Nat) : Nat := ids.foldl (fun h x => (h * 0x5DEECE66D1A4F87B + x + 1) % 18446744073709551616) h

/-! Every list is read before a tree is changed: an operation that waits on another module is seen by none (R325). -/

/-- As an instruction of the running task, or as the Starter unit (`State.asDevice`). -/
def readIds (s : State) (va n : Nat) : Except Stop (List Nat × State) :=
  match s.load .read va (32 * n) with
  | .ok (v, s) => .ok (unpack 32 n v, s)
  | .error e => .error e

/-- The faults of a read of a child's IDs that fail its confirmation; any other is the instruction's (R309, R326; an access fault among them
DESIGN CHOICE, log 15). -/
def missFaults : List Nat := [Cls.translation, .permission, .access, .sectorCode].map Cls.code

/-- The child of a node that confirms a segment of a request, the failed confirmations, and the state (R326). A child whose record cannot be
read is a sector-code fault; only its IDs fail a confirmation (R404). -/
def State.confirm (s : State) (tr : Tree) (hash : Nat) (ids : List Nat) : List Nat → Nat → Except Stop (Option Nat × Nat × State)
  | [], miss => .ok (none, miss, s)
  | i :: rest, miss =>
    let n := s.node tr i
    if s.badNode tr i then fail .sectorCode (wOf (8 * tr))
    else if !n.used || n.hash ≠ hash then s.confirm tr hash ids rest miss
    else match readIds s n.toks ids.length with
      | .ok (got, _) => if got = ids then .ok (some i, miss, s) else s.confirm tr hash ids rest (miss + 1)
      | .error (.trap f) => if missFaults.contains f.cls then s.confirm tr hash ids rest (miss + 1) else .error (.trap f)
      | .error e => .error e

/-- The walk of a seek from node `i`, with the path so far (last first) and the failed confirmations (R326). -/
def State.walkTree (s : State) (tr : Tree) (g : Nat) : Nat → Nat → List Nat → Nat → List Nat → Except Stop (List Nat × Nat)
  | 0, _, path, miss, _ => .ok (path, miss)
  | fuel + 1, h, path, miss, ids =>
    if ids.length < g then .ok (path, miss)
    else
      let mine := ids.take g
      let hash := chainHash h mine
      match s.confirm tr hash mine (s.kids tr (path.headD 0)) miss with
      | .error e => .error e
      | .ok (none, miss, _) => .ok (path, miss)
      | .ok (some i, miss, _) => s.walkTree tr g fuel hash (i :: path) miss (ids.drop g)

def State.stamp (s : State) (tr : Tree) (i : Nat) : State := s.putNode tr i { s.node tr i with stamp := s.ccnt.toNat }

/-- The checks and the walk of a seek: the tree, the path (last node first) and the failed confirmations (R326, R345, R349). -/
def State.seek (s : State) (x : MW) : Except Stop (Tree × List Nat × Nat × State) := do
  let v := s.rd x.b
  let n := wField v 32 32
  need ((s.rd x.a).toNat % 32 == 0) .alignment (s.rd x.a)
  need (decide (wField v 8 16 + 32 ≤ 65536)) .localRange v
  need (wField v 24 8 == 0 && decide (n ≤ 16777216)) .starter v
  let at_ ← State.addrOk (s.rd x.a).toNat (32 * n)
  let _ ← s.resolve .read [(at_, 32 * n)]
  let tr := treeAt s.me.part (wField v 0 4)
  need (!s.badSector tr 64 && !s.badNode tr 0) .sectorCode (wOf (8 * tr))
  let s := s.tookTree tr
  need (s.created tr) .starter v
  let r ← readIds s at_ n
  let (path, miss) ← r.2.walkTree tr (r.2.segTokens tr) n 0 [0] 0 r.1
  need (path.headD 0 == 0 || decide ((r.2.node tr (path.headD 0)).ref < 4294967295)) .reference 0 0 (wOf (path.headD 0))
  .ok (tr, path, miss, r.2)

/-- STR.SEEK (R326, R345, R349). -/
def execStrSeek (x : MW) (s : State) : Out1 := issue .f x.tk s fun s => do
  let v := s.rd x.b
  let (tr, path, miss, s) ← s.seek x
  let i := path.headD 0
  let s := s.bump tr 32 miss
  let s := path.foldl (fun s i => s.stamp tr i) s
  let s := if i = 0 then s else s.putNode tr i { s.node tr i with ref := (s.node tr i).ref + 1 }
  let s := s.padWrite (2097152 * wField v 4 4 + 32 * wField v 8 16) 1024 (s.peekN (tr + 1048576 + 128 * i) 128)
  .ok (s.clearRpl.result x.d (if i = 0 then 0 else wOf (i * 4294967296 + s.segTokens tr * (path.length - 1))))

/-- Lowers the counts of the pages a removed node names: the pages returned and the state (R328). -/
def State.lowerPages (s : State) (p : Nat) (tr : Tree) (pages : List Nat) : Nat × State :=
  pages.foldl (fun (acc : Nat × State) k =>
    let s := acc.2
    if s.pageCap tr ≤ k || s.pageCount tr k = 0 then (acc.1, s.partRecord p 11 3 k 0)
    else
      let c := s.pageCount tr k - 1
      (if c = 0 then acc.1 + 1 else acc.1, s.setPageCount tr k c)) (0, s)

/-- A node is unlinked and unused (R328). -/
def State.unlink (s : State) (tr : Tree) (i : Nat) : State :=
  let n := s.node tr i
  let up := s.node tr n.parent
  let s := if up.fchild = i then s.putNode tr n.parent { up with fchild := n.sib }
    else match (s.kids tr n.parent).find? fun k => (s.node tr k).sib = i with
      | some k => s.putNode tr k { s.node tr k with sib := n.sib }
      | none => s
  let s := s.putNode tr i { n with flags := 0, owner := 0, sib := noNode, fchild := noNode }
  s.setMovers { s.movers with freed := s.movers.freed ++ [(treeKey tr, i)] }

/-- The page lists of nodes as memory holds them now: KVL and, where it can be read, the pages (R328). A lower tier that is late, or an
uncorrectable sector, ends an instruction that reads one (R309, R356, R404); for the Starter unit at the end of a launch it is a list that can no
longer be read (DEDUCED, log 15). -/
def State.pageLists (s : State) (tr : Tree) (nodes : List Nat) : Except Stop (List (Nat × Option (List Nat)) × State) :=
  eachM (fun (acc : List (Nat × Option (List Nat)) × State) (i : Nat) =>
    let n := s.node tr i
    match readIds acc.2 n.kvl n.kvn with
    | .ok (pages, s) => .ok (acc.1 ++ [(n.kvl, some pages)], s)
    | .error (.trap f) =>
      if s.me.owner.isSome && (f.cls = Cls.lowerTier.code || f.cls = Cls.sectorCode.code) then .error (.trap f)
      else .ok (acc.1 ++ [(n.kvl, none)], acc.2)
    | .error e => .error e) nodes ([], s)

/-- The pages of removed nodes' lists lose a reference each: pages returned (R328). -/
def State.lowerLists (s : State) (p : Nat) (tr : Tree) (lists : List (Nat × Option (List Nat))) : Nat × State :=
  lists.foldl (fun (acc : Nat × State) x =>
    match x.2 with
    | some pages =>
      let r := acc.2.lowerPages p tr pages
      (acc.1 + r.1, r.2)
    | none => (acc.1, acc.2.partRecord p 11 3 x.1 0)) (0, s)

/-- Removes a node: it is unlinked, and the pages that its list names now lose a reference (R328). -/
def State.removeNode (s : State) (p : Nat) (tr : Tree) (i : Nat) : Except Stop (Nat × State) :=
  match s.pageLists tr [i] with
  | .ok (lists, s) => .ok ((s.unlink tr i).lowerLists p tr lists)
  | .error e => .error e

/-- The owner gives up nodes in the order given: those unlinked, the references released, and the state (R328). -/
def State.releaseNodes (s : State) (tr : Tree) (nodes : List Nat) : List Nat × Nat × State :=
  nodes.foldl (fun (acc : List Nat × Nat × State) i =>
    let s := acc.2.2
    let n := s.node tr i
    let refs := if n.ref = 0 then acc.2.1 else acc.2.1 + 1
    if n.ref ≤ 1 && n.fchild = noNode then (acc.1 ++ [i], refs, (s.putNode tr i { n with ref := 0 }).unlink tr i)
    else (acc.1, refs, s.putNode tr i { n with ref := n.ref - 1, flags := n.flags % 2, owner := 0 })) ([], 0, s)

/-- Drops nodes of a launch in the order given: pages returned and references released (R328). -/
def State.dropNodes (s : State) (p : Nat) (tr : Tree) (nodes : List Nat) : Except Stop (Nat × Nat × State) :=
  match s.pageLists tr (s.releaseNodes tr nodes).1 with
  | .error e => .error e
  | .ok (lists, s) =>
    let r := s.releaseNodes tr nodes
    let y := r.2.2.lowerLists p tr lists
    .ok (y.1, r.2.1, y.2)

/-- OWNER of a launch's nodes (R323). -/
def Launch.ownerField (l : Launch) : Nat := l.queue % 64 + l.seq % 2 ^ 48 * 64
/-- OWNER of the running task's launch. -/
def State.ownerField (s : State) : Nat := match s.taskOf s.cur with | some (_, _, l) => l.ownerField | none => 0

/-- The nodes in use among those that NCAP counts: those above it are no candidates, and neither fill the tree nor are evicted (R322, R329,
R358; DESIGN CHOICE, log 15). -/
def State.usedBelow (s : State) (tr : Tree) : List Nat := (s.usedNodes tr).filter fun i => decide (i < s.nodeCap tr)

/-- What an eviction removes (R329). -/
def State.victim (s : State) (tr : Tree) (keep : Nat) : Option Nat :=
  ((s.usedBelow tr).foldl (fun (best : Option (Nat × Nat)) i =>
    let n := s.node tr i
    if i = 0 || i = keep || n.prov || n.ref ≠ 0 || n.fchild ≠ noNode then best
    else match best with
      | some (t, _) => if n.stamp < t then some (n.stamp, i) else best
      | none => some (n.stamp, i)) none).map (·.2)

/-- The free node that a deposit takes: the lowest index that was never used, else the one longest unused, of the indices below NCAP (R358). -/
def State.freeNode (s : State) (tr : Tree) : Option Nat :=
  let used := s.usedBelow tr
  let freed := (s.movers.freed.filter fun x => x.1 = treeKey tr).map (·.2)
  match (List.range (s.nodeCap tr)).find? fun i => !used.contains i && !freed.contains i with
  | some i => some i
  | none => freed.find? fun i => decide (i < s.nodeCap tr) && !used.contains i

/-- A deposit that makes a new child, after an eviction if the tree is full; none where no node qualifies (R327, R329). -/
def State.newNode (s : State) (tr : Tree) (parent : Nat) (n : Node) (pages : List Nat) : Except Stop (Option (Nat × State)) := do
  let room ← if (s.usedBelow tr).length < s.nodeCap tr then .ok (some s)
    else match s.victim tr parent with
      | none => .ok none
      | some i =>
        match s.removeNode s.me.part tr i with
        | .ok (_, s) => .ok (some (s.bump tr 40 1))
        | .error e => .error e
  match room.bind fun s => (s.freeNode tr).map fun i => (i, s) with
  | none => .ok none
  | some (i, s) =>
    let s := s.setMovers { s.movers with freed := s.movers.freed.filter fun x => x != (treeKey tr, i) }
    let s := s.putNode tr i { n with sib := (s.node tr parent).fchild }
    let s := s.putNode tr parent { s.node tr parent with fchild := i }
    .ok (some (i, pages.foldl (fun s k => s.setPageCount tr k (s.pageCount tr k + 1)) s))

/-- A deposit, read and checked (R327, R346): the tree, the parent, the segment, the pages of its list, and the node as it would be new. -/
structure Deposit where
  tree : Tree
  parent : Nat
  ids : List Nat
  pages : List Nat
  node : Node
  deriving DecidableEq, Repr

/-- The checks of a deposit up to the search among the parent's children (R327, R346, R349). -/
def State.depositOf (s : State) (x : MW) : Except Stop (Deposit × State) := do
  need ((s.rd x.a).toNat % 512 == 0) .alignment (s.rd x.a)
  let r ← State.loadRecord s (s.rd x.a) 512 512
  let y := r.1
  let s := r.2
  let parent := field y 64 64
  let toks := field y 128 64
  let kvl := field y 192 64
  let kvn := field y 256 64
  need (toks % 32 == 0 && kvl % 32 == 0) .alignment (s.rd x.a)
  need (field y 4 60 == 0 && decide (parent < 4294967296) && decide (kvn ≤ 4096) && field y 448 64 == 0) .starter (s.rd x.a)
  let tr := treeAt s.me.part (field y 0 4)
  need (!s.badSector tr 64) .sectorCode (wOf (8 * tr))
  let s := s.tookTree tr
  let g := if s.created tr then s.segTokens tr else 0
  let t ← State.addrOk toks (32 * g)
  let k ← State.addrOk kvl (32 * kvn)
  let _ ← s.resolve .read [(t, 32 * g), (k, 32 * kvn)]
  need (s.created tr) .starter (s.rd x.a)
  let up := s.node tr parent
  need (s.nodeCap tr ≤ parent || !s.badNode tr parent) .sectorCode (wOf (8 * tr))
  need (decide (parent < s.nodeCap tr) && up.used) .starter 0 0 (wOf parent)
  let l ← readIds s k kvn
  match l.1.find? fun q => decide (l.2.pageCap tr ≤ q) with
  | some q => fail .starter 0 (wOf q)
  | none => pure ()
  let i ← readIds l.2 t g
  let s := i.2
  .ok (⟨tr, parent, i.1, l.1, ⟨chainHash up.hash i.1, parent, noNode, noNode, 1, s.ccnt.toNat, toks, 3, kvl, kvn, up.depth + 1,
    field y 320 64, field y 384 64, s.ownerField⟩⟩, s)

/-- STR.DEP (R327, R346, R349). One that makes a node reads the whole tree for it: an uncorrectable sector there is a sector-code fault (R404; DESIGN
CHOICE, log 15). -/
def execStrDep (x : MW) (s : State) : Out1 := issue .w x.tk s fun s => do
  let (y, s) ← s.depositOf x
  let tr := y.tree
  let (child, miss, s) ← s.confirm tr y.node.hash y.ids (s.kids tr y.parent) 0
  match child with
  | some c => do
    let n := s.node tr c
    need (decide (n.ref < 4294967295)) .reference 0 0 (wOf c)
    let s := (s.bump tr 32 miss).putNode tr c { n with ref := n.ref + 1, stamp := s.ccnt.toNat }
    .ok (s.clearRpl.result x.d (wOf c))
  | none => do
    need (!s.treeTorn tr) .sectorCode (wOf (8 * tr))
    match y.pages.find? fun q => decide (4294967295 < s.pageCount tr q + (y.pages.filter (· == q)).length) with
    | some q => fail .starter 0 (wOf q)
    | none => pure ()
    match ← s.newNode tr y.parent y.node y.pages with
    | none => .ok (s.clearRpl.result x.d (wOf (9223372036854775808 + noNode)))
    | some (c, s) => .ok ((s.bump tr 32 miss).clearRpl.result x.d (wOf (4294967296 + c)))

/-- The tree and node that STR.PIN, STR.REL and STR.DROP name (R347 to R349). -/
def State.namedNode (s : State) (tree : Word) (i : Nat) (ok : Bool) : Except Stop Tree := do
  need (wField tree 4 60 == 0 && ok) .starter tree
  let tr := treeAt s.me.part (wField tree 0 4)
  need (!s.badSector tr 64 && (s.nodeCap tr ≤ i || !s.badNode tr i)) .sectorCode (wOf (8 * tr))
  need (s.created tr && decide (i < s.nodeCap tr) && (s.node tr i).used) .starter 0 0 (wOf i)
  .ok tr

/-- STR.PIN (R347). -/
def execStrPin (x : MW) (s : State) : Out1 := issue .w x.tk s fun s => do
  let i := wField (s.rd x.b) 0 32
  let tr ← s.namedNode (s.rd x.a) i (wField (s.rd x.b) 32 32 == 0)
  let s := s.tookTree tr
  let n := s.node tr i
  need (decide (n.ref < 4294967295)) .reference 0 0 (wOf i)
  .ok (s.putNode tr i { n with ref := n.ref + 1, stamp := s.ccnt.toNat }).clearRpl

/-- STR.REL (R329, R347). -/
def execStrRel (x : MW) (s : State) : Out1 := issue .w x.tk s fun s => do
  let i := wField (s.rd x.b) 0 32
  let tr ← s.namedNode (s.rd x.a) i (wField (s.rd x.b) 32 32 == 0)
  let s := s.tookTree tr
  let n := s.node tr i
  need (n.ref != 0) .reference 0 0 (wOf i)
  .ok (s.putNode tr i { n with ref := n.ref - 1 }).clearRpl

/-- The nodes from `i` up to the root. -/
def State.ancestors (s : State) (tr : Tree) : Nat → Nat → List Nat
  | 0, _ => []
  | fuel + 1, i => if i = 0 || 122880 ≤ i then [] else i :: s.ancestors tr fuel (s.node tr i).parent

/-- The node is provisional and belongs to this owner. -/
def Node.ownedBy (n : Node) (owner : Nat) : Bool := n.used && n.prov && n.owner == owner

/-- STR.DROP (R328, R348). It reads the tree for the nodes it drops: an uncorrectable sector there is a sector-code fault (R404; DESIGN CHOICE,
log 15). -/
def execStrDrop (x : MW) (s : State) : Out1 := issue .w x.tk s fun s => do
  let i := wField (s.rd x.b) 0 32
  let tr ← s.namedNode (s.rd x.a) i true
  need (!s.treeTorn tr) .sectorCode (wOf (8 * tr))
  let s := s.tookTree tr
  let mine := (s.ancestors tr 122880 i).filter fun k =>
    (s.node tr k).ownedBy s.ownerField && decide (wField (s.rd x.b) 32 32 < (s.node tr k).depth * s.segTokens tr)
  let r ← s.dropNodes s.me.part tr mine
  .ok (r.2.2.clearRpl.result x.d (wOf (r.1 * 4294967296 + r.2.1)))

/-- What the end of launch number `id` does to the nodes it owns: at status 0 they become permanent, else they are dropped, deepest
first (R328). It waits while a list lies on another module. A node that cannot be read, and a tree that cannot be where nodes are dropped,
stays as it is (DESIGN CHOICE, log 15). -/
def State.settleNodes (s : State) (id : LaunchId) (l : Launch) (ok : Bool) : Except Stop State :=
  eachM (fun (s : State) t =>
    let tr := treeAt l.part t
    let s := s.tookTree tr
    let mine := (s.usedNodes tr).filter fun i => !s.badNode tr i && (s.node tr i).ownedBy l.ownerField
    if mine.isEmpty || (!ok && s.treeTorn tr) then .ok s
    else if ok then .ok (mine.foldl (fun s i => s.putNode tr i { s.node tr i with flags := 1, owner := 0 }) s)
    else
      let deepest := mine.mergeSort fun i j => decide ((s.node tr j).depth ≤ (s.node tr i).depth)
      s.asDevice (stepAsker id) l.part fun s => (s.dropNodes l.part tr deepest).map fun r => r.2.2) (List.range 16) s

end Sys2Proof.Machine
end

