-- ==== Sys2Proof/Machine/Churn.lean ====
section
/-! DEFINITION. Instructions that queue work beside the task: requests to the Creamer (R336), placement tables (R320, R342 to R344)
and Churn rings (R330 to R333, R350 to R353), with a task's scratchpad wherever it is (R332, R408). -/

namespace Sys2Proof.Machine

/-! ### A task's scratchpad and weight store -/

/-- The pre-emption image of a task whose launch is saved: its byte address (R391, R406). -/
def State.savedAt (s : State) (t : TaskId) : Option Nat :=
  match s.task t with
  | none => none
  | some x =>
    match s.launch x.launch with
    | none => none
    | some l => if l.preempt = .saved then (s.slotOf t).map (· + 35651584) else none

/-- Pieces of weight-store bits, each inside one slab. -/
def slabPieces (bit n : Nat) : List (Nat × Nat) := if n = 0 then [] else pieces 98304 ((bit + n - 1) / 98304 - bit / 98304 + 1) bit n

/-- Bits of memory that the device owns, checked and put right by the sector code (R402, R404). -/
def State.peekBits (s : State) (a bit n : Nat) : Except Stop (Nat × State) :=
  let b := a + bit / 8
  let k := (bit % 8 + n + 7) / 8
  if s.lostAt b then fail .storage (wOf (8 * b))
  else if s.badSector b k then fail .sectorCode (wOf (8 * b))
  else .ok (field (natOfBytes (s.bytesAt b k)) (bit % 8) n, s.scrub s.me.part b k)

/-- Merges bits into memory that the device owns, sector by sector (R116, R404, R408). -/
def State.mergeBits (s : State) (a bit n x : Nat) : Except Stop State := s.writeSectors (gather [((8 * a + bit, n), x)])

/-- An uncorrectable SRAM word lies among these scratchpad bits of unit k (R405). -/
def State.tornPad (s : State) (k : CoreId) (bit n : Nat) : Bool :=
  s.edge.sramErr.any fun x => x.1 == k && !x.2.2 && decide (bit / 32 ≤ x.2.1) && decide (32 * x.2.1 < bit + n)

/-- What stands for the unit of a task: the unit, or what its reset has left of the task (R383, R399; log 17). -/
def State.taskCore (s : State) (x : Task) : Core := x.kept.getD (s.core x.core)

/-- Scratchpad bits of a task, in its unit or its saved image (R405, R408). -/
def State.taskPad (s : State) (t : TaskId) (bit n : Nat) : Except Stop (Nat × State) :=
  match s.savedAt t with
  | some a => s.peekBits a bit n
  | none =>
    match s.task t with
    | some x => if s.tornPad x.core bit n then fail .storage (wOf bit) else .ok (readBits (s.taskCore x).pad bit n, s)
    | none => .ok (0, s)

/-- Changes the stores of a task's unit, and with them what a reset has left of the task. -/
def State.modTaskCore (s : State) (t : TaskId) (x : Task) (f : Core → Core) : State :=
  let s := s.setCore x.core (f (s.core x.core))
  if x.kept.isSome then s.setTask t { x with kept := x.kept.map f } else s

/-- Writes scratchpad bits of a task as a BTE or a ring does: not journaled (R395), and into the saved image of a pre-empted
task (R408), with what goes on there (R407). -/
def State.setTaskPad (s : State) (t : TaskId) (bit n x : Nat) : Except Stop State :=
  match s.savedAt t with
  | some a =>
    let g := ghostOf t
    let s := match assoc s.cores g with
      | some c => s.setCore g { c with pad := writeBits c.pad bit n x }
      | none => s
    s.mergeBits a bit n x
  | none =>
    .ok (match s.task t with
    | some y => s.modTaskCore t y fun c => { c with pad := writeBits c.pad bit n x }
    | none => s)

/-- Writes weight-store bits of a task, at the bound unit (R216), or in the saved image of a pre-empted task. A write that leaves part of
an uncorrectable sector of a stack engine as it is fails (R15, R404). -/
def State.setTaskWst (s : State) (t : TaskId) (bit n x : Nat) : Except Stop State :=
  match s.savedAt t with
  | some a => s.mergeBits (a + 4194304) bit n x
  | none =>
    match s.task t with
    | some y =>
      let s := (slabPieces bit n).foldl (fun s (p : Nat × Nat) => s.takeSlab y.core (p.1 / 98304)) s
      let o := 8 * (windowBase y.core + 4194304) + bit
      let y := (s.task t).getD y
      if y.kept.isNone && codedUnit y.core && !s.memory.check.isEmpty then s.windowWrite (o, n) x
      else .ok (s.modTaskCore t y fun c => { c with wst := writeBits c.wst bit n x })
    | none => .ok s

/-- A launch is to be aborted with status 2 at its boundary (R404, R410). -/
def State.doomTask (s : State) (t : TaskId) : State :=
  match s.task t with
  | some x => match s.launch x.launch with | some l => s.setLaunch x.launch { l with doom := some 2 } | none => s
  | none => s

/-! ### Promotion and demotion (R336) -/

/-- The home tier and page range of the object that holds all of a range (R288, R336). -/
def State.objectOver (s : State) (va bits : Nat) : Option (Nat × Nat) :=
  match s.objectAt s.me.part va with
  | some (i, a) =>
    if va + bits ≤ s.numAt a 8 + s.numAt (a + 8) 8 then some (i, field (s.numAt (a + 16) 8) 4 2) else none
  | none => none

/-- Queues a request at the Creamer, logged (R336, R396). -/
def State.crmRequest (s : State) (x : MW) (promote : Bool) : Except Stop State := do
  let va := (s.rd x.a).toNat
  let bits := if promote then (s.rd x.b).toNat else 1
  let tier := x.sub.val % 4
  need (!promote || (va % 524288 == 0 && bits % 524288 == 0 && bits != 0)) .alignment (s.rd x.a)
  let (r, q) := s.pairOf x.d
  s.refOk r
  s.logged (fun s => do
    let at_ ← State.addrOk va bits
    let _ ← s.resolve .read [(at_, bits)]
    match s.objectOver va bits with
    | none => fail (if (s.objects s.me.part).any s.badRecord then .sectorCode else .residency) (wOf va)
    | some (i, home) => do
      need (decide (tier < home)) .residency (wOf va)
      match s.taskOf s.cur with
      | none => .ok (0, s)
      | some (t, y, l) => do
        need (decide (y.crm < 16)) .crmQueue (wOf va)
        let s := (s.tookRecord va).setTask t { y with crm := y.crm + 1 }
        let req : CrmReq := ⟨t, l.order, l.seq, s.me.part, l.queue, promote, tier, va / 524288, bits / 524288, i, r, q⟩
        let s := s.setMovers { s.movers with queue := s.movers.queue ++ [req] }
        .ok (0, s.push (if promote then .promotion else .demotion)))
    fun _ s => .ok s

/-- CRM.PROM (R292, R336). -/
def execCrmProm (x : MW) (s : State) : Out1 := issue .w x.tk s fun s => s.crmRequest x true
/-- CRM.DEM (R295, R336). -/
def execCrmDem (x : MW) (s : State) : Out1 := issue .w x.tk s fun s => s.crmRequest x false

/-! ### Placement tables (R320, R342 to R344) -/

/-- The entries (ACC, LEN) of the table of n entries whose bits these are; none where a reserved field is set or an ACC is
outside the domain. -/
def State.placements (s : State) (x n : Nat) : Option (List (Nat × Nat)) :=
  let es := unpack 64 n (x / 2 ^ 512)
  if field x 10 502 = 0 && es.all fun e => field e 9 23 == 0 && decide (e % 512 < wField (s.rootCsr 593) 0 9)
  then some (es.map fun e => (e % 512, e / 2 ^ 32)) else none

/-- The entries of the placement table at s[a] as they stand, unchecked: their number and the table's bits (R320). -/
def State.tableBits (s : State) (va : Word) : Except Stop (Nat × Nat × State) := do
  let at_ ← State.addrOk va.toNat 512
  let h ← s.load .both at_ 512
  let k := field h.1 0 10
  need (decide (1 ≤ k) && decide (k ≤ 512)) .placement va
  let at_ ← State.addrOk va.toNat (512 + 64 * k)
  let r ← h.2.load .both at_ (512 + 64 * k)
  .ok (k, r.1, r.2)

/-- The checked entries of a table (R344). -/
def State.entries (s : State) (va : Word) (bits k : Nat) : Except Stop (List (Nat × Nat)) :=
  match s.placements bits k with
  | some es => .ok es
  | none => fail .placement va

/-- The entry of R320: least length, then lower accelerator index, then lower number. -/
def shortest (es : List (Nat × Nat)) : Nat × Nat × Nat :=
  (es.zipIdx).foldl (fun (b : Nat × Nat × Nat) (x : (Nat × Nat) × Nat) =>
    if x.1.2 < b.2.2 || (x.1.2 == b.2.2 && decide (x.1.1 < b.2.1)) then (x.2, x.1.1, x.1.2) else b)
    (0, (es.headD (0, 0)).1, (es.headD (0, 0)).2)

/-- PLC.APP, logged (R343, R396). -/
def execPlcApp (x : MW) (s : State) : Out1 := issue .w x.tk s fun s => do
  let va := s.rd x.a
  need (va.toNat % 512 == 0) .alignment va
  s.logged (fun s => do
    let (k, bits, s) ← s.tableBits va
    let es ← s.entries va bits k
    let b := shortest es
    .ok (wOf (b.2.2 * 4294967296 + b.1 * 65536 + b.2.1), s))
    fun v s => .ok (s.result x.d v)

/-- The PLCD flit of a delta: table address, entry and delta (R344, R441; log 14). -/
def State.plcFlit (s : State) (acc : Nat) (va : Word) (e : Nat) (delta : Word) : Flit :=
  s.flit s.me.part 7 acc 0 (bytesOfNat 8 va.toNat ++ bytesOfNat 8 e ++ bytesOfNat 8 delta.toNat)

/-- PLC.UPD (R344, R356): a module without a route is an access fault, which comes before the checks of the entries. -/
def execPlcUpd (x : MW) (s : State) : Out1 := issue .w x.tk s fun s => do
  let va := s.rd x.a
  let delta := s.rd x.d
  let e := (s.rd x.b).toNat
  need (va.toNat % 512 == 0) .alignment va
  need (decide (-2147483648 ≤ delta.toInt) && decide (delta.toInt ≤ 2147483647)) .placement delta
  let (k, bits, s) ← s.tableBits va
  let others := ((unpack 64 k (bits / 2 ^ 512)).map (· % 512)).eraseDups.filter fun a =>
    a != s.ownAcc && decide (a < wField (s.rootCsr 593) 0 9)
  if others.any fun a => !s.routed a then .error (.trap { mkTrap .access va with sub := 5 })
  else do
    let es ← s.entries va bits k
    need (decide (e < es.length)) .placement (s.rd x.b)
    let len := ((es.getD e (0, 0)).2 + delta.toNat) % 4294967296
    let s ← s.store (va.toNat + 512 + 64 * e + 32) 32 len
    .ok (others.foldl (fun s a => s.send (s.plcFlit a va e delta)) s.clearRpl)

/-! ### Churn rings (R330 to R333, R350 to R353) -/

def Ring.bits (r : Ring) : Nat := 8 * r.bytes
def Ring.n (r : Ring) : Nat := r.members.length
/-- Scratchpad bit offset of the slot of a step (R350). -/
def Ring.slotBit (r : Ring) (step : Nat) : Nat := r.bank * 2097152 + step % r.slots * r.bits
/-- The member whose own block is the block of a step (R351). -/
def Ring.origin (r : Ring) (step : Nat) : Nat := (r.me + 2 * r.n - 1 - step % r.n) % r.n
def Ring.succ (r : Ring) : Nat × Nat := r.members.getD ((r.me + 1) % r.n) (0, 0)
def Ring.pred (r : Ring) : Nat × Nat := r.members.getD ((r.me + r.n - 1) % r.n) (0, 0)
/-- The block of a step has arrived. -/
def Ring.arrived (r : Ring) (step : Nat) : Bool := decide (r.bytes ≤ r.got.get 0 step)
/-- The block of a step has been released: the CHN.NXT of the next step has retired, and the send of that step has read it
(R331). The last step sends nothing further. -/
def Ring.freed (r : Ring) (step : Nat) : Bool :=
  decide (step + 1 ≤ r.nexts) && (decide (r.n ≤ step + 2) || decide (step + 2 ≤ r.sent))

/-- Has the sends of this member and of its predecessor on this module tried next. -/
def State.pushSends (s : State) (t : TaskId) (r : Ring) : State :=
  let s := s.pushOnce (.churnStepSend t)
  match s.memberTask t r.pred with
  | some u => if u = t then s else s.pushOnce (.churnStepSend u)
  | none => s

/-- The ring of a record and its member table (R350). -/
def ringFrom (y : Nat) (members : List (Nat × Nat)) (me : Nat) : Ring where
  rid := field y 320 16
  slots := field y 16 4 + 1
  bank := field y 20 4
  bytes := 128 * (field y 32 9 + 1)
  period := wOf (field y 64 64)
  t0 := wOf (field y 128 64)
  members := members
  me := me
  own := field y 256 25
  nexts := 0
  sent := 0
  got := []
  opening := true
  closing := false
  checked := false
  broken := false
  ports := []

/-- Reserved fields and ranges of a ring record (R350, R351); the own block too ends inside the scratchpad (log 15). -/
def ringOk (y : Nat) : Bool :=
  let r := ringFrom y [] 0
  decide (1 ≤ field y 0 9) && decide (field y 0 9 ≤ 431) && field y 9 7 == 0 && field y 16 4 != 0 && field y 24 8 == 0 &&
    field y 41 23 == 0 && decide (64 ≤ field y 64 64) && decide (field y 64 64 ≤ 4294967296) && field y 281 39 == 0 &&
    field y 336 48 == 0 && field y 384 128 == 0 && decide (r.bank * 2097152 + r.slots * r.bits ≤ Config.padBits) &&
    decide (r.own + r.bits ≤ Config.padBits)

/-- Opens the ring of a record (R350, R351). -/
def State.openRing (s : State) (x : MW) : Except Stop (Ring × State) := do
  let va := s.rd x.a
  need (va.toNat % 512 == 0) .alignment va
  let h ← State.loadRecord s va 512 512
  let y := h.1
  need (field y 192 64 % 32 == 0 && field y 256 64 % 1024 == 0) .alignment va
  need (ringOk y) .layout va
  let n := field y 0 9 + 1
  let at_ ← State.addrOk (field y 192 64) (32 * n)
  let m ← h.2.load .read at_ (32 * n)
  let es := unpack 32 n m.1
  need (es.all fun e => field e 9 7 == 0 && field e 24 8 == 0) .layout va
  need (es.all fun e => decide (e % 512 < wField (s.rootCsr 593) 0 9)) .access va
  let members := es.map fun e => (e % 512, field e 16 8)
  let mine := (s.ownAcc, s.role)
  need ((members.filter (· == mine)).length == 1) .churn va
  .ok (ringFrom y members (members.findIdx (· == mine)), m.2)

/-- T0 + 16 P has passed: a member that opens the ring at that very cycle is in time (R351). -/
def State.pastOpening (s : State) (r : Ring) : Bool := decide (r.t0.toNat + 16 * r.period.toNat < s.ccnt.toNat)

/-- The predecessor of a member that awaits its first block has not opened the ring in time; one on another module shows by its
opening flit that it has (R351; log 14, 15). -/
def State.openLate (s : State) (t : TaskId) (r : Ring) : Bool :=
  r.opening && !r.arrived 0 && s.pastOpening r &&
    match s.memberTask t r.pred with
    | none => !r.checked
    | some u => match s.ringOf u with | some y => y.rid != r.rid || y.t0 != r.t0 || y.broken | none => true

/-- A block, or a piece of one, reaches its slot; one that meets an uncorrectable sector of a saved image dooms the launch (R410). -/
def State.putBlock (s : State) (t : TaskId) (bit n x : Nat) : State :=
  match s.setTaskPad t bit n x with
  | .ok s => s
  | .error _ => s.doomTask t

/-- The member of a ring on this module to which a CHNB flit of partition p goes. -/
def State.chnTarget (s : State) (p : Nat) (x : Flit) : Option (TaskId × Ring) :=
  s.sched.tasks.findSome? fun y =>
    match y.2.ring with
    | some r =>
      if r.rid == field x.addr.toNat 24 16 && y.2.role == field x.addr.toNat 16 8 && r.pred.1 == x.src.toNat % 512 &&
          s.taskPart y.1 == p then some (y.1, r) else none
    | none => none

/-- The slot of a step is free: it has not been used, or has been released (R331). -/
def Ring.room (r : Ring) (step : Nat) : Bool := decide (step < r.slots) || r.freed (step - r.slots)

/-- The operands that each member checks against its predecessor's (R351): n, S and block size. -/
def Ring.shape (r : Ring) : Nat := r.n + 65536 * r.slots + 4294967296 * r.bytes

/-- A CHNB flit of partition p is taken, or held back by the link until its ring is open here and its slot free: nothing is dropped
but what belongs to a broken ring (R330, R331, R333, R351). A piece that comes after CHN.END or END has closed the ring is held like one that
comes before its ring opens, and a later ring of that number takes it (DESIGN CHOICE, log 15). -/
def State.churnTake (s : State) (p : Nat) (x : Flit) : State :=
  let step := x.tag.toNat
  let ofs := x.addr.toNat % 65536
  let hold := s.setEdge { s.edge with churn := s.edge.churn ++ [(p, x)] }
  match s.chnTarget p x with
  | none => hold
  | some (t, r) =>
    if r.broken then s
    else if ofs = 65504 then
      if r.checked then hold
      else if natOfBytes (x.payload.take 8) = r.shape then s.setRing t (some { r with checked := true })
      else s.breakRing t
    else if !r.checked || r.arrived step || !r.room step || decide (r.n < step + 2) then hold
    else
      let k := min 112 (r.bytes - ofs)
      let s := s.putBlock t (r.slotBit step + 8 * ofs) (8 * k) (natOfBytes (x.payload.take k))
      (s.setRing t (some { r with got := r.got.put 0 step (r.got.get 0 step + k) })).pushOnce (.churnStepSend t)

/-- A ring has broken at another member: it breaks at every member here, one that opens it later among them. What tells of a ring begun before
the one that is open here concerns none, and what tells of a later one waits for that (R333, R350, R351; log 15). -/
def State.churnBroken (s : State) (p : Nat) (x : Flit) : State :=
  let mine := s.sched.tasks.filterMap fun y =>
    match y.2.ring with
    | some r =>
      if r.rid == field x.addr.toNat 24 16 && s.taskPart y.1 == p && r.members.any fun m => m.1 == x.src.toNat % 512 then some (y.1, r)
      else none
    | none => none
  let t0 := natOfBytes (x.payload.take 8)
  if mine.any fun y => decide (t0 < y.2.t0.toNat) then s
  else (mine.foldl (fun s y => if y.2.broken || y.2.t0.toNat != t0 then s else s.breakHere y.1 y.2) s).holdBreak p x

/-- BERAST_CHNB's effect: another module tells that a ring has broken, or a piece of a block arrives (R330, R333). -/
def State.churnArrive (s : State) (p : Nat) (x : Flit) : State := if breaksRing x then s.churnBroken p x else s.churnTake p x

/-- What the link holds back is tried again, in the order it came. -/
def State.takeHeld (s : State) : State :=
  s.edge.churn.foldl (fun s x => s.churnArrive x.1 x.2) (s.setEdge { s.edge with churn := [] })

/-- A ring is closed at a task, and pieces of blocks that it no longer takes are dropped (R353). -/
def State.closeRing (s : State) (t : TaskId) (r : Ring) : State :=
  let p := s.taskPart t
  let role := (r.members.getD r.me (0, 0)).2
  let late (x : Nat × Flit) : Bool :=
    !breaksRing x.2 && x.1 == p && field x.2.addr.toNat 24 16 == r.rid && field x.2.addr.toNat 16 8 == role && x.2.src.toNat % 512 == r.pred.1 &&
      !r.arrived x.2.tag.toNat
  let s := s.setRing t none
  if s.edge.churn.isEmpty then s else s.setEdge { s.edge with churn := s.edge.churn.filter fun x => !late x }

/-- CHN.BEG (R350, R351): it waits until the block of step 0 has arrived. A member that opens the ring past its time breaks it. A ring that has
broken since it opened is closed, and no longer in the way (R333). -/
def execChnBeg (x : MW) (s : State) : Out1 := issue .w x.tk s fun s =>
  match s.taskOf s.cur with
  | none => fail .churn
  | some (t, y, _) =>
    match y.ring.filter fun r => r.opening || !r.broken with
    | none => do
      let r ← s.openRing x
      let s := r.2.setRing t (some r.1)
      .error (.wait ((if s.pastOpening r.1 then s.breakRing t else s).takeHeld.pushSends t r.1))
    | some r =>
      if !r.opening then do
        let _ ← s.openRing x
        fail .churn
      else if r.broken || s.openLate t r then fail .churnBreak
      else if r.arrived 0 then .ok ((s.clearRpl.setRing t (some { r with opening := false })).pushSends t r)
      else .error (.wait (s.takeHeld.pushSends t r))

/-- CHN.NXT, logged (R332, R352, R396): it waits for the block of its step. While CHN.BEG of the ring still waits the ring is not open to it, nor
to CHN.END, and it takes the churn fault; so does one that waits when W issues CHN.END (DESIGN CHOICE, log 15). -/
def execChnNxt (x : MW) (s : State) : Out1 := issue .f x.tk s fun s =>
  s.logged (fun s =>
    match s.taskOf s.cur with
    | none => fail .churn
    | some (t, y, _) =>
      match y.ring with
      | none => fail .churn
      | some r =>
        let step := r.nexts + 1
        if r.opening || r.closing || decide (r.n < step + 2) then fail .churn
        else if r.broken then fail .churnBreak
        else if r.arrived step then
          .ok (wOf (r.origin step * 4294967296 + r.slotBit step),
            ((s.setRing t (some { r with nexts := step })).takeHeld).pushSends t r)
        else .error (.wait (s.takeHeld.pushSends t r)))
    fun v s => .ok (s.result x.d v)

/-- CHN.END, logged (R353, R396): it waits until the member's last send has been read, unless the ring has broken. -/
def execChnEnd (x : MW) (s : State) : Out1 := issue .w x.tk s fun s =>
  s.logged (fun s =>
    match s.taskOf s.cur with
    | none => fail .churn
    | some (t, y, _) =>
      match y.ring with
      | none => fail .churn
      | some r =>
        if r.opening then fail .churn
        else if r.broken || decide (r.n ≤ r.sent + 1) then .ok (0, s.closeRing t r)
        else .error (.wait ((s.setRing t (some { r with nexts := r.n - 2, closing := true })).takeHeld.pushSends t r)))
    fun _ s => .ok s

/-- The flits of a send to another module: the opening flit before step 0, then the block in pieces of 112 bytes (R330, R441; log 14). -/
def State.blockFlits (s : State) (p : Nat) (r : Ring) (step block : Nat) : List Flit :=
  let flit (ofs : Nat) (d : List Byte) : Flit := s.ringFlit p r.succ.1 r.rid r.succ.2 step ofs d
  (if step = 0 then [flit 65504 (bytesOfNat 8 r.shape)] else []) ++
    ((groupsOf 112 (bytesOfNat r.bytes block)).zipIdx).map fun (d, i) => flit (112 * i) d

def State.sendBlock (s : State) (p : Nat) (r : Ring) (step block : Nat) : State := (s.blockFlits p r step block).foldl State.send s

/-- The ring with the ports on which these flits leave (R442, R445). -/
def State.portsUsed (s : State) (r : Ring) (xs : List Flit) : Ring :=
  { r with ports := (xs.filterMap fun x => s.portFor (x.dst.toNat % 512) x.addr.toNat).foldl insertNat r.ports }

/-- F of core k waits at a CHN.NXT, which ends with the fault of a broken ring itself (R333). -/
def State.waitsAtNxt (s : State) (k : CoreId) : Bool :=
  (s.core k).wait.f == .memory && match (s.core k).heldAt .f with | some (.chnNxt _) => true | _ => false

/-- A pending send of a broken ring ends with a churn-break fault (R333): the ring is open and not closing, the task runs, and neither
CHN.BEG nor a waiting CHN.NXT takes the fault. W, which opened the ring, raises it (log 15). The send of a task that is saved or stands at a
boundary is tried again when the task goes on. -/
def State.sendFault (s : State) (t : TaskId) (x : Task) (r : Ring) : State :=
  let c := s.core x.core
  let running := match s.launch x.launch with
    | some l => l.phase == .running && !l.arrived.contains x.role && !l.ended.contains x.role
    | none => false
  if !running || r.opening || r.closing || x.saved.isSome || c.owner != some t || c.stopped.isSome || s.waitsAtNxt x.core then s
  else s.takeFault x.core .w (mkTrap .churnBreak)

/-- The member's next send, which it may make (R330, R331, R351): to a successor on this module once its slot is free, to one on another
module at once, where the link holds it back; where no port leads there any more the ring breaks (R333). A ring is the one of its opening time
and number (R350; log 15). At step 0 a successor that holds the ring under another number or shape breaks it; one that still holds an earlier ring
is waited for until the time to open has passed. A later send finds its successor's ring closed, and another ring of the successor takes nothing of
it. The sends of a task that has ended close its ring (R353). An uncorrectable SRAM word of the block stops the member's task, an uncorrectable
sector of its saved image dooms the launch (R405, R410). -/
def State.sendNow (s : State) (t : TaskId) (r : Ring) (ended : Bool) : State :=
  let u := r.sent
  let again := s.pushOnce (.churnStepSend t)
  let done (r : Ring) (s : State) : State :=
    if ended && decide (r.n ≤ u + 2) then s.closeRing t r
    else (s.setRing t (some { r with sent := u + 1 })).pushOnce (.churnStepSend t)
  match s.taskPad t (if u = 0 then r.own else r.slotBit (u - 1)) r.bits with
  | .error _ =>
    match s.savedAt t, ended, s.task t with
    | none, false, some x => s.tornFault x.core
    | _, _, _ => (done r s).doomTask t
  | .ok (block, s) =>
    match s.memberTask t r.succ with
    | none =>
      if !s.routed r.succ.1 then s.breakRing t else
      let p := s.taskPart t
      done (s.portsUsed r (s.blockFlits p r u block)) (s.sendBlock p r u block)
    | some v =>
      match (s.ringOf v).filter fun y => !y.broken && y.t0 == r.t0 && (u == 0 || y.rid == r.rid) with
      | none => if u ≠ 0 then done r s else if s.pastOpening r then s.breakRing t else again
      | some y =>
        if !(y.rid == r.rid && y.shape == r.shape) then (if u = 0 then (s.breakRing t).breakRing v else done r s)
        else if !y.room u then again
        else
          let s := s.putBlock v (y.slotBit u) y.bits block
          done r (s.setRing v (some { y with got := y.got.put 0 u y.bytes, checked := true }))

/-- CHURN_STEP_SEND: the member's next send, once its step has begun and its block is there; until then it is tried again. A broken ring
ends it (R330, R331, R333). -/
def execChurnStepSend (t : TaskId) (s : State) : Out1 :=
  let s := s.takeHeld
  match s.task t, s.ringOf t with
  | some x, some r =>
    let u := r.sent
    let ended := match s.launch x.launch with | some l => l.ended.contains x.role | none => true
    let begun := decide (r.t0.toNat + u * r.period.toNat ≤ s.ccnt.toNat) && (u == 0 || r.arrived (u - 1))
    if r.n < u + 2 then .next s
    else if r.broken then .next (if begun then s.sendFault t x r else s)
    else if s.openLate t r then .next (s.breakRing t)
    else if !begun then .next (s.pushOnce (.churnStepSend t))
    else .next (s.sendNow t r ended)
  | _, _ => .next s

/-- CHURN_OPEN_TIMEOUT: a member of the task's ring has not opened it by T0 + 16 P, and the ring breaks (R351). -/
def execChurnOpenTimeout (t : TaskId) (s : State) : Out1 :=
  match s.ringOf t with
  | some r => .next (if s.openLate t r then s.breakRing t else s)
  | none => .next s

end Sys2Proof.Machine
end

