-- ==== Sys2Proof/Machine/Slot.lean ====
section
/-! DEFINITION. The replay record of a task and its images in memory: the superstep-start image (R391 to R394), the pre-emption
image (R403, R406, R408), and the restore of a superstep for a replay (R397). -/

namespace Sys2Proof.Machine

/-- Listed cells of n bytes of memory, by offset. -/
def State.cellsAt (s : State) (a n : Nat) : Sparse Byte :=
  if !s.portOver a n && s.memory.clrRows.isEmpty && s.memory.clrBlocks.isEmpty && s.memory.check.isEmpty then partOf a n s.memory.bytes
  else Sparse.entries 0 0 (s.bytesAt a n)

/-- Cells for n bytes of memory, with what stands in port pages there: no store of the device changes that (R257). -/
def State.pastPorts (s : State) (a n : Nat) (cells : Sparse Byte) : Sparse Byte :=
  (cells.filter fun x => (s.portPage (a + x.1)).isNone) ++
    partOf a n (s.memory.bytes.filter fun x => (s.portPage x.1).isSome)

/-- The words, of four bytes, of a byte map with rising keys that hold a listed byte. -/
def cellWords (cells : Sparse Byte) : Sparse Nat :=
  cells.foldr (fun x ws =>
    let v := x.2.toNat * 256 ^ (x.1 % 4)
    match ws with
    | (w, u) :: rest => if w = x.1 / 4 then (w, u + v) :: rest else (x.1 / 4, v) :: ws
    | [] => [(x.1 / 4, v)]) []

/-- The words in which two byte maps with rising keys differ: address and value in the first. -/
def differingWords (old new : Sparse Byte) : List (Nat × Nat) :=
  let a := (cellWords old).map fun x => (x.1, some x.2, (none : Option Nat))
  let b := (cellWords new).map fun x => (x.1, (none : Option Nat), some x.2)
  ((Sparse.merge (fun x y => (x.1, y.2)) (a.length + b.length) a b).filter fun x => x.2.1 != x.2.2).map fun x => (x.1, x.2.1.getD 0)

/-- Replaces n bytes of memory by these cells; their sectors carry their own code again. -/
def State.storeCells (s : State) (a n : Nat) (cells : Sparse Byte) : State :=
  let cells := if s.portOver a n then s.pastPorts a n cells else cells
  let old := s.keepText (differingWords (moved a (partOf a n s.memory.bytes)) (moved a (cells.filter fun x => x.1 < n)))
  let s := s.settle a n
  let m := s.memory
  s.setMemory { m with
    oldText := old
    bytes := m.bytes.overlay a n (moved a ((cells.mend 0).filter fun x => x.1 < n))
    check := m.check.filter fun x => decide (16 * x.1 + 16 ≤ a) || decide (a + n ≤ 16 * x.1) }

/-- Cells from offset `lo` on, below `lo + n`, counted from `lo`. -/
def cutCells (lo n : Nat) (cells : Sparse Byte) : Sparse Byte := partOf lo n cells

def startAt : Nat := 2097152
def preemptAt : Nat := 35651584
/-- Size of a pre-emption image, and of an image of CTXSV (R391, R420). -/
def imageBytes : Nat := 33554432

/-- Byte offsets in its window of the uncorrectable SRAM words of a unit's registers, scalars and CSRs (R405, R406). -/
def State.tornRegisters (s : State) (k : CoreId) : List Nat :=
  s.edge.sramErr.filterMap fun x =>
    if x.1 == k && !x.2.2 && decide (16777216 ≤ 4 * x.2.1) && decide (4 * x.2.1 < 16777216 + 311296) then some (4 * x.2.1) else none

/-- Begins the replay record of a superstep: the start image, and a header that says VALID and RPL (R392, R394). What an uncorrectable SRAM word
holds is no better in the image (R402, R405). -/
def State.beginRecord (s : State) (t : TaskId) : State :=
  match s.slotOf t, s.task t with
  | some a, some x =>
    let c := s.taskCore x
    let at_ := a + startAt
    let s := s.storeCells (at_ + 16777216) 311296 (cutCells 16777216 311296 (c.registerImage ++ c.scalarImage s.ccnt (s.sclkOf x.core)))
    let s := s.storeCells (at_ + 18874368) 262144 (cutCells 18874368 262144 (c.updateArea 18874368))
    let s := if x.kept.isSome || s.edge.sramErr.isEmpty then s else s.spoil (((s.tornRegisters x.core).map fun o => (at_ + o) / 16).eraseDups)
    let s := s.storeCells a 96 (Sparse.entries 0 0 (bytesOfNat 8 (c.getC .f 4).toNat ++ bytesOfNat 8 3))
    s.setTask t { x with journal := [], replaying := false, hops := [], hop := 0 }
  | _, some x => s.setTask t { x with hops := [], hop := 0 }
  | _, none => s

/-! ### The pre-emption image (R406 to R408) -/

/-- An instruction that a pre-emption completes into the image where it has not retired: those of the table of R407, and those of neither row
of it, which retire whatever another module's answer takes (log 17). -/
def completes : Instr → Bool
  | .atom _ | .mcmt _ | .chnBeg _ | .chnEnd _ | .strSeek _ | .strDep _ | .strPin _ | .strRel _ | .strDrop _ | .sts _ | .bini _ | .red _ | .plcUpd _
  | .plcApp _ | .attf _ => true
  | _ => false

/-- Engine e of core k has issued such an instruction, which waits. -/
def State.underWay (s : State) (k : CoreId) (e : Eng) : Bool :=
  (s.core k).wait.get e == .memory && match (s.core k).heldAt e with | some i => completes i | none => false

/-- What an image says of a core whose engines `es` have instructions under way: their program counters stand after them, and the tokens
they popped are spent (R407). -/
def Core.pastThem (c : Core) (es : List Eng) : Core := es.foldl (fun c e => { c.pass! e 2 with popped := c.popped.set e [] }) c

/-- The instructions of the engines not in `es` are abandoned, and their tokens go back (R99, R406). -/
def Core.abandonBut (c : Core) (es : List Eng) : Core :=
  let d := (Eng.all.filter fun e => !es.contains e).foldl Core.putBack c
  { d with wait := c.wait.map fun w => match w with | .push m => .push m | _ => .run }

/-- A pre-emption inside a superstep may strike an XCPY that has been issued and has written part of its destination: it is abandoned with its
source bank staged. Whether it does, and how many of its elements are written, is free (R406, R407; log 2). -/
def State.breakOff (s : State) (k : CoreId) : State :=
  let t := { s with cur := k, eng := Eng.f }
  if (s.core k).stopped.isSome || (s.core k).owner.isNone || (s.core k).wait.f != .run then s
  else match t.fetch with
    | .instr (.xcpy x) =>
      match t.takeTokens k .f (popsOf .f x.tk) with
      | none => s
      | some u =>
        let u := u.setMe (u.me.hear .f)
        let n := wField (u.rd x.b) 42 22
        if n = 0 || !u.copyFits x || s.choose 20482 2 != 0 then s
        else
          let m := s.choose 20483 (n + 1) / 32 * 32
          let bank := partOf (262144 * x.a.val) 262144 (u.me.sourceOf x.a.val).pad
          let w := (u.copyBank x m).1
          { w.setCore k { s.core k with pad := (w.core k).pad, staged := some bank } with cur := s.cur, eng := s.eng }
    | _ => s

/-- A pre-emption saves one task: its state goes into its slot, and its unit is free. A task that stands stopped on a fault keeps its unit
and its state, as does one that stops now on an uncorrectable SRAM word; an uncorrectable sector of a stack engine's store is one of the image
too. Instructions that are completed into the image go on in a core of their own (R390, R402, R405 to R408, R410; log 17). -/
def State.saveTask (s : State) (t : TaskId) : State :=
  match s.slotOf t, s.task t with
  | some a, some x =>
    if (s.core x.core).stopped.isSome || x.saved.isSome then s
    else if (s.takeSlabs x.core).tornWord x.core then (s.takeSlabs x.core).tornFault x.core
    else
      let going := Eng.all.filter fun e => s.underWay x.core e
      let s := (s.takeSlabs x.core).scrubUnit x.core
      let c := s.core x.core
      let waits := c.wait.map fun w => match w with | Wait.pop _ | Wait.slip | Wait.memory => Wait.run | w => w
      let c := c.abandonBut going
      let s := s.storeCells (a + preemptAt) imageBytes
        (cutCells 0 imageBytes ((c.pastThem going).savedImage s.ccnt (s.sclkOf x.core)))
      let s := s.spoil ((s.badPlaces x.core).map fun o => (a + preemptAt + o) / 16)
      let s := s.setMemory { s.memory with arrivals := s.memory.arrivals.filter fun y => y.who != .core x.core }
      let s := s.setEdge { s.edge with asks := s.edge.asks.map fun y =>
        if y.core = x.core && going.contains y.eng then { y with core := ghostOf t } else y }
      let s := s.quitAsks x.core
      let idle : Core := { c with owner := none, stopped := none, staged := none, popped := .const [], kcache := [], parts := [], fBar := .idle, wBar := .idle }
      let s := s.setCore x.core idle
      let s := if going.isEmpty then s
        else s.setCore (ghostOf t) { c with
          kcache := [], parts := [], fBar := .idle, wBar := .idle, holder := []
          wait := Eng.all.foldl (fun w e => w.set e (if going.contains e then .memory else .ended)) c.wait }
      s.setTask t { x with saved := some (waits, none), staged := c.staged.isSome }
  | _, _ => s

/-- What goes on of a saved task's instructions ends: they are issued again, or the launch has ended. -/
def State.dropGhost (s : State) (t : TaskId) : State := ({ s with cores := assocDrop s.cores (ghostOf t) }).dropAsks (ghostOf t)

/-- Bytes that differ between two maps: their addresses and new values. -/
def changedCells (old new : Sparse Byte) : List (Nat × Byte) :=
  (new.filter fun x => old.get 0 x.1 != x.2) ++ ((old.filter fun x => new.get 0 x.1 == 0).map fun x => (x.1, 0))

/-- Writes into the image what instructions under way have left: scratchpad bytes, scalars, CSRs, FIFOs and pending updates. An
uncorrectable sector there dooms the launch (R408, R410). -/
def State.writeImage (s : State) (t : TaskId) (c : Core) : State :=
  match s.slotOf t with
  | none => s
  | some a =>
    let b := a + preemptAt
    let bad := s.badSector (b + 17072128) 12288 || s.badSector (b + 18874368) 262144
    let ws := (changedCells (partOf b 4194304 s.memory.bytes) c.pad).map fun x => ((8 * (b + x.1), 8), x.2.toNat)
    match if bad then .error (.trap (mkTrap .sectorCode)) else s.writeSectors (gather ws) with
    | .error _ => s.doomTask t
    | .ok s =>
      let s := s.storeCells (b + 17072128) 12288 (cutCells 17072128 12288 (c.scalarImage s.ccnt (s.sclkOf (ghostOf t))))
      s.storeCells (b + 18874368) 262144 (cutCells 18874368 262144 (c.updateArea 18874368))

/-- The instruction of engine e of a saved task has retired: it is in the image (R407). -/
def State.landEngine (s : State) (t : TaskId) (e : Eng) : State :=
  match s.task t with
  | some x =>
    match x.saved with
    | none => s
    | some (waits, stopped) =>
      let c := s.core (ghostOf t)
      let w := c.wait.get e
      let c := { c with wait := c.wait.set e .ended }
      let left := Eng.all.filter fun e => c.wait.get e != .ended
      let s := (s.writeImage t (c.pastThem left)).setTask t { x with saved := some (waits.set e w, stopped) }
      if left.isEmpty then s.dropGhost t else s.setCore (ghostOf t) c
  | none => s

/-- The instruction of a saved task has faulted: the image is that of a task stopped there (R41, R407, R410). -/
def State.landFault (s : State) (t : TaskId) : State :=
  match s.task t with
  | some x =>
    match x.saved with
    | none => s
    | some (waits, _) =>
      let c := s.core (ghostOf t)
      ((s.writeImage t c).setTask t { x with saved := some (waits, c.stopped) }).dropGhost t
  | none => s

/-- What a saved task's instructions have left so far goes into its image. -/
def State.land (s : State) (t : TaskId) : State :=
  match assoc s.cores (ghostOf t) with
  | none => s
  | some c =>
    if c.stopped.isSome then s.landFault t
    else Eng.all.foldl (fun s e => match c.wait.get e with | .run | .push _ => s.landEngine t e | _ => s) s

/-- A resume restores the image of a saved task onto unit k and binds it (R408). An instruction still under way goes on there. -/
def State.restoreTask (s : State) (t : TaskId) (k : CoreId) : State :=
  match s.slotOf t, s.task t with
  | some a, some x =>
    match x.saved with
    | none => s
    | some (waits, stopped) =>
      let s := (s.took (s.taskPart t) (a + preemptAt) imageBytes).cleanUnit k
      let image := s.cellsAt (a + preemptAt) imageBytes
      let c := Core.ofSaved (s.core k) image
      let c := (c.setCAll 2 (wOf (k / 256))).setCAll 3 (wOf (k % 256))
      let c : Core := { c with
        owner := some t, stopped := stopped, wait := waits, popped := .const [], fBar := .idle, wBar := .idle
        kcache := [], parts := [], holder := [], mode := .tile
        staged := if x.staged then some (partOf 19922944 262144 image) else none }
      let c := match assoc s.cores (ghostOf t) with
        | none => c
        | some g => { c with
            scal := g.scal, pc := g.pc, pass := g.pass, fifo := g.fifo, upds := g.upds, made := g.made, known := g.known
            popped := g.popped, popAt := g.popAt, held := g.held
            wait := Eng.all.foldl (fun w e => if g.wait.get e == .ended then w else w.set e .memory) waits }
      let s := s.setCore k c
      let s := ((s.refile (savedAsker t) k).refile (ghostOf t) k).setTask t { x with core := k, saved := none, staged := false } |>.dropGhost t
      if x.ring.isSome then s.pushOnce (.churnStepSend t) else s
  | _, _ => s

/-! ### Replay (R395, R397) -/

/-- The entries of the undo journal, in the order appended: kind, index and old bytes (R395). -/
def journalEntries : Nat → List Byte → List (Nat × Nat × List Byte)
  | 0, _ => []
  | fuel + 1, bs =>
    if bs.length < 16 then []
    else
      let kind := (bs.headD 0).toNat
      let idx := natOfBytes ((bs.drop 8).take 4)
      let n := if kind = 0 then 256 else 13312
      (kind, idx, (bs.drop 16).take n) :: journalEntries fuel (bs.drop (16 + n))

/-- Undoes one journal entry; a slab it names is held at the bound unit again (R397). -/
def Core.undo (c : Core) (x : Nat × Nat × List Byte) : Core :=
  if x.1 = 0 then { c with pad := c.pad.splice 0 (256 * x.2.1) x.2.2 }
  else { c with
    wst := c.wst.splice 0 (12288 * x.2.1) (x.2.2.take 12288)
    scl := c.scl.splice 0 (1024 * x.2.1) (x.2.2.drop 12288)
    holder := c.holder.put 0 x.2.1 0 }

/-- The unit with what a reset of the task's unit has cleared (R383, R399; log 17). -/
def Core.withKept (c : Core) (kept : Option Core) : Core :=
  match kept with
  | some d => { c with pad := d.pad, wst := d.wst, scl := d.scl }
  | none => c

/-- Steps 1 to 3 of R397, what is read of the slot put right (R402), on a core that holds the task's scratchpad and weight store. -/
def State.restoreSuperstep (s : State) (t : TaskId) (k : CoreId) : State :=
  match s.slotOf t, s.task t with
  | some a, some x =>
    let s := s.took (s.taskPart t) a 134217728
    let s := if x.kept.isSome then s.cleanUnit k else s
    let jlen := s.numAt (a + 24) 8
    let entries := journalEntries (jlen / 272 + 1) (s.bytesAt (a + 69206016) jlen)
    let c := entries.reverse.foldl Core.undo ((s.core k).withKept x.kept)
    let s := entries.foldl (fun s y => if y.1 = 0 then s else (s.cleanSlab k y.2.1 false).cleanSlab k y.2.1 true) s
    let cells := s.cellsAt (a + startAt) imageBytes
    let keep := c.pad ++ moved 4194304 c.wst
    let regs := cells.filter fun y => 16777216 ≤ y.1
    let c1 := (c.ofWindow (keep ++ regs)).ofUpdates cells 18874368
    let c1 := { c1 with
      owner := some t, stopped := none, wait := .const .run, popped := .const [], fBar := .idle, wBar := .idle
      kcache := [], parts := [], part := c.part, mode := .tile, staged := none }
    let s := s.setCore k ((c1.setCAll 2 (wOf (k / 256))).setCAll 3 (wOf (k % 256)))
    let s := s.storeCells (a + 64) 32 []
    let s := s.refile (savedAsker t) k
    (s.setTask t { x with
      core := k, group := none, cmdPos := 0, replaying := true, hop := 0, kept := none
      -- the CHN.BEG that waited is issued again
      ring := x.ring.filter fun r => !r.opening }).dropGhost t
  | _, _ => s

/-- The pre-emption image of a task holds no uncorrectable sector (R402, R410; log 17). -/
def State.mayResume (s : State) (t : TaskId) : Bool :=
  match s.slotOf t with
  | some a => !s.badSector (a + preemptAt) imageBytes
  | none => true

/-- The replay record of a task can be used: VALID and RPL are 1 and no sector of the slot is uncorrectable (R397, R410). -/
def State.mayReplay (s : State) (t : TaskId) : Bool :=
  match s.slotOf t with
  | some a => field (s.numAt (a + 8) 8) 0 2 == 3 && !s.badSector a 134217728
  | none => false

end Sys2Proof.Machine
end

