-- ==== Sys2Proof/Machine/Meet.lean ====
section
/-! DEFINITION. Bindings, hand-over, meetings and the finish of a launch (R18, R83, R84, R276, R294, R297 to R302, R305, R413). -/

namespace Sys2Proof.Machine

/-! ### Bindings (R17, R18) -/

/-- The unit of a binding entry. -/
def entCore (ent : Nat) : CoreId := field ent 16 2 * 256 + ent % 256

/-- A valid entry without reserved fields, its index inside its tier (R17, R18). -/
def entOk (ent : Nat) : Bool :=
  ent.testBit 31 && field ent 18 13 == 0 && field ent 8 8 == 0 &&
    (match field ent 16 2 with
     | 0 => true
     | 1 => decide (ent % 256 < 192)
     | 2 => decide (ent % 256 < 16)
     | _ => false)

/-- The unit is bound, reserved by a hand-over in progress, worked on by a CTXSV or CTXRS that waits, or holds slabs of a task bound elsewhere
(R18, R420). -/
def State.unitBusy (s : State) (k : CoreId) : Bool :=
  (s.core k).owner.isSome || s.ctxBusy k ||
    (s.cores.any fun x => x.2.owner.isSome && x.2.holder.any fun h => h.2 == k + 1) ||
    s.sched.launches.any fun x => x.2.moving.any fun m => entCore m.2.1.toNat == k

/-- The entry may bind a role of partition p, the task's own unit `own` excepted (R18, R300). -/
def State.entryFits (s : State) (p ent : Nat) (own : Option CoreId) : Bool :=
  let k := entCore ent
  entOk ent && s.ownsUnit p k && !(s.core k).defective && (own == some k || !s.unitBusy k)

/-- The first role whose entry breaks R18. Of two roles that name one unit the later is the offending one: the spec does not say which (DESIGN CHOICE,
log 12). -/
def State.badRole (s : State) (p : Nat) (ents : List Nat) : Option Nat :=
  (ents.zipIdx.find? fun x => !s.entryFits p x.1 none || (ents.take x.2).any fun y => entCore y == entCore x.1).map (·.2)

/-! ### Records of a launch and reports to a task -/

/-- Places a report in every copy (R294, R301, R427). -/
def Core.report (c : Core) (r : Word × Word × Word) : Core :=
  Eng.all.foldl (fun c e =>
    let ovw := wField (c.getC e 64) 0 8 != 0
    ((c.setC e 64 (if ovw then r.1 ||| 65536#64 else r.1)).setC e 65 r.2.1).setC e 66 r.2.2) c

/-- Places the reports of a task that wait for a meeting, in order of completion (R305). -/
def State.placeReports (s : State) (t : TaskId) : State :=
  match s.task t with
  | some x => if x.reports.isEmpty then s
    else (s.setCore x.core (x.reports.foldl Core.report (s.core x.core))).setTask t { x with reports := [] }
  | none => s

/-- The reports that a HOP places: in a replay those that the HOP placed in the first run of the superstep, else those that wait (R305, R399). -/
def State.hopReports (s : State) (t : TaskId) : State :=
  match s.task t with
  | none => s
  | some x =>
    let y := match x.hops[x.hop]? with
      | some _ => { x with hop := x.hop + 1 }
      | none => { x with hops := x.hops ++ [x.reports], hop := x.hop + 1, reports := [] }
    let rs := x.hops.getD x.hop x.reports
    (if rs.isEmpty then s else s.setCore x.core (rs.foldl Core.report (s.core x.core))).setTask t y

/-- Every engine of core k passes its meeting word. -/
def State.passAll (s : State) (k : CoreId) : State :=
  s.setCore k (s.core k).passMeeting

/-! ### Hand-over (R297 to R302, R305) -/

/-- What strikes for a task at a strike point: the copy of a hand-over begins, or the entry is dropped (R298, R300, R305). -/
def State.strike (s : State) (t : TaskId) : State :=
  match s.task t with
  | none => s
  | some x =>
    match s.launch x.launch with
    | none => s
    | some l =>
      let fd := l.fdem.get 0 x.role
      let pb := l.pbind.get 0 x.role
      if fd == 0 && pb == 0 then s
      else
        let l := { l with fdem := l.fdem.put 0 x.role 0, pbind := l.pbind.put 0 x.role 0 }
        let s := s.setLaunch x.launch l
        let s := if fd != 0 && pb != 0 then s.launchRecord l 6 x.role (pb % 2 ^ 32) 4 else s
        let ent := (if fd ≠ 0 then fd else pb) % 2 ^ 32
        if !s.entryFits l.part ent (some x.core) then s.launchRecord l 2 x.role ent 0
        else if entCore ent = x.core then s
        else
          let s := s.setLaunch x.launch { l with moving := l.moving ++ [(x.role, wOf ent, fd != 0)] }
          s.push (.handOverCopyDone t .done)

/-- The role's hand-over copy is in progress. -/
def Launch.copying (l : Launch) (role : Nat) : Bool := l.moving.any fun m => m.1 == role

/-- Engines that stand at the HOP at which the hand-over struck go on. -/
def State.leaveHop (s : State) (t : TaskId) : State :=
  match s.task t with
  | some x => if Eng.all.all fun e => (s.core x.core).wait.get e == .meet 43 then (s.hopReports t).passAll x.core else s
  | none => s

/-- The eager state of core k on core j: everything but the weight store, whose slabs stay with their holders (R299, R302). -/
def Core.eager (c d : Core) (k j : CoreId) : Core :=
  { c with
    wst := d.wst
    scl := d.scl
    kcache := []
    holder := (List.range 1024).filterMap fun i =>
      let h := match c.holder.get 0 i with | 0 => k + 1 | h => h
      if h = j + 1 then none else some (i, h) }

/-- The lowest slab of the task held away from its unit. -/
def State.nextSlab (s : State) (t : TaskId) : Option Nat :=
  match s.task t with
  | some x => ((s.core x.core).holder.head?).map (·.1)
  | none => none

/-- Writes a binding entry of a launch: in its loaded table, and in the table in memory where a mapping still reaches it
(R300; log 17): in an open region, in its shadow copy (R127). A flash die that accepts no write yet has it sent again (R450, R451). -/
def State.bind (s : State) (id : LaunchId) (l : Launch) (role ent : Nat) : State :=
  let s := s.setLaunch id { l with table := l.table.set role (wOf ent) }
  match s.resolveAs .tile l.part .none [(l.bindAt.toNat + 32 * role, 32)] with
  | .ok [[g]] =>
    if isRemote s g then s
    else if s.flashHeld [g] then
      (s.emit .flashRetry).push (.flashRequestRetry ⟨⟨.tier, g.1 / 8 - flashBase⟩, bytesOfNat 4 ent⟩)
    else match s.mergeBits 0 g.1 32 ent with
      | .ok t => t
      | .error _ => s
  | _ => s

/-- HAND_OVER_COPY_DONE (R300, R301): the eager state is on the new unit, or the hand-over is abandoned. An uncorrectable SRAM word of the old
unit ends it so, and stops the task (R405). -/
def execHandOverCopyDone (t : TaskId) (r : CopyEnd) (s : State) : Out1 :=
  match s.task t with
  | none => .next s
  | some x =>
    match s.launch x.launch with
    | none => .next s
    | some l =>
      match l.moving.find? fun m => m.1 == x.role with
      | none => .next s
      | some m =>
        let l := { l with moving := l.moving.filter fun y => y.1 != x.role }
        let ent := m.2.1.toNat
        let j := entCore ent
        let torn := s.tornWord x.core
        match if torn then CopyEnd.error else r with
        | .done =>
          let s := s.bind x.launch l x.role ent
          let old := s.core x.core
          let c := old.eager (s.core j) x.core j
          let s := s.setCore j ((c.setCAll 2 (wOf (j / 256))).setCAll 3 (wOf (j % 256)))
          let s := s.setCore x.core { old with owner := none, holder := [], wait := .const .run, popped := .const [] }
          let s := s.setTask t { x with core := j }
          let s := match s.nextSlab t with | some i => s.push (.slabMove t (Fin.ofNat 1024 i) true) | none => s
          let s := if l.preempt = .pending then s.push (.preemptionStrike x.launch) else s
          .next (s.leaveHop t)
        | e =>
          let s := s.dropMove t (match e with | .late => 3 | _ => 1)
          .next (if torn then s.tornFault x.core else s.leaveHop t)

/-- The slab cannot be moved: a sector of it at its holder is uncorrectable (R15, R404). -/
def State.tornSlab (s : State) (holder j : Nat) : Bool :=
  !s.memory.check.isEmpty && [false, true].any fun scale => let r := slabSectors holder j scale; s.badSector (16 * r.1) (16 * r.2)

/-- The Creamer goes on with the lowest slab of a task that is held elsewhere. -/
def State.goOnMoving (s : State) (t : TaskId) : State :=
  match s.nextSlab t with
  | some i => s.pushOnce (.slabMove t (Fin.ofNat 1024 i) true)
  | none => s

/-- A slab of a task moves to its unit, or stays with its holder and is tried again. While an instruction of M that waits reads slabs, none
moves. A slab that an instruction has brought home is passed over (R302). The later slabs wait for the retry of one that fails: R302 moves
them in ascending order and does not say whether the order holds then (DESIGN CHOICE, log 17). -/
def State.moveSlab (s : State) (t : TaskId) (j : Nat) (ok : Bool) : State :=
  match s.task t with
  | none => s
  | some x =>
    let h := (s.core x.core).holder.get 0 j
    if x.saved.isSome then s
    else if h = 0 then s.goOnMoving t
    else if (s.core x.core).wait.m == .memory then s.pushOnce (.slabMove t (Fin.ofNat 1024 j) ok)
    else if ok && !s.tornSlab (h - 1) j then (s.takeSlab x.core j).goOnMoving t
    else (s.deviceRecord false (s.taskPart t) 3 j).pushOnce (.slabMoveRetry t (Fin.ofNat 1024 j) true)

/-- SLAB_MOVE (R302). -/
def execSlabMove (t : TaskId) (j : Fin 1024) (ok : Bool) (s : State) : Out1 := .next (s.moveSlab t j.val ok)
/-- SLAB_MOVE_RETRY (R302). -/
def execSlabMoveRetry (t : TaskId) (j : Fin 1024) (ok : Bool) (s : State) : Out1 := .next (s.moveSlab t j.val ok)

/-! ### Finish of a launch (R276, R268, R328, R438) -/

/-- MSI-X vector v of the partition's function fires, or is pending while it is masked (R438). -/
def State.msix (s : State) (p v : Nat) : State :=
  let vf := (s.part p).vfn
  if s.edge.msixMask.contains (128 * vf + v) then
    s.setEdge { s.edge with msixPend := insertNat s.edge.msixPend (128 * vf + v) }
  else s.emit (.msix vf v)

/-- A completion arrival of a launch; a reference word that breaks R159 is refused as R134 says (R262). -/
def State.launchArrival (s : State) (p q seq : Nat) (ref phase : Word) (status : Nat) : State :=
  if wField ref 32 32 ≠ 0 || wField (s.rootCsr 593) 0 9 ≤ wField ref 23 9 then
    s.record false p (kindRecord 3 p q seq ref.toNat phase.toNat status)
  else s.complete p ref phase status

/-- A launch counts as finished: FIN rises, its completion arrival is made, and the host's vector fires (R276, R438). -/
def State.countFinish (s : State) (p q seq : Nat) (cv : Bool) (ref phase : Word) (status : Nat) : State :=
  let x := s.queue (64 * p + q)
  let s := s.setQueue (64 * p + q) { x with
    fin := (x.fin + 1) % 2 ^ 48, since := none, arrivals := if cv then x.arrivals ++ [(ref, phase)] else x.arrivals }
  let s := if cv then s.launchArrival p q seq ref phase status else s
  (s.msix p q).pushOnce .schedulerIssue

/-- A unit is free of its task: engines stop, tokens and pending updates are discarded (R83). Its slabs are at home again. -/
def State.freeUnit (s : State) (k : CoreId) : State :=
  let s := s.takeSlabs k
  let s := s.setMemory { s.memory with arrivals := s.memory.arrivals.filter fun a => a.who != .core k }
  let s := s.quitAsks k
  s.setCore k { s.core k with
    owner := none, stopped := none, wait := .const .ended, popped := .const [], fifo := [], upds := [], fBar := .idle
    wBar := .idle, parts := [], staged := none }

/-- The former words of a launch's text are forgotten: its tasks execute no more (R34). -/
def State.dropText (s : State) (id : LaunchId) : State :=
  if s.memory.oldText.isEmpty then s
  else s.setMemory { s.memory with oldText :=
    (s.memory.oldText.map fun x => (x.1, x.2.filter fun y => y.1 != id)).filter fun x => !x.2.isEmpty }

/-- A launch that has ended counts as finished once its nodes are settled: it waits while a page list lies on another module (R276,
R328). -/
def State.endLaunch (s : State) (id : LaunchId) : State :=
  match s.launch id with
  | none => s
  | some l =>
    match l.ending with
    | none => s
    | some status =>
      let gone (s : State) : State :=
        let s := { s with sched := { s.sched with launches := assocDrop s.sched.launches id } }
        (s.dropText id).countFinish l.part l.queue l.seq l.cv l.cref l.cphs status
      match s.settleNodes id l (status == 0) with
      | .ok t => gone t
      | .error (.wait t) => t.pushOnce (.launchFinish id)
      | .error (.trap _) => gone s

/-- Ends a launch with a status (R276): its rings break, its units and slots are free, and its nodes are settled. -/
def State.finishLaunch (s : State) (id : LaunchId) (status : Nat) : State :=
  match s.launch id with
  | none => s
  | some l =>
    if l.ending.isSome then s
    else
      let mine := s.sched.tasks.filter fun x => x.2.launch == id
      let s := mine.foldl (fun s x => s.breakRing x.1) s
      let s := mine.foldl (fun s x => if x.2.saved.isSome then s else s.freeUnit x.2.core) s
      let s := mine.foldl (fun s x => (s.dropGhost x.1).dropAsks (savedAsker x.1)) (s.dropAsks (stepAsker id))
      let s := { s with sched := { s.sched with tasks := s.sched.tasks.filter fun x => x.2.launch != id } }
      let l := { l with phase := .held, arrived := [], ended := List.range l.n, cmds := [], moving := [], ending := some status }
      (s.setLaunch id l).endLaunch id

/-- An abort: queued commands are dropped, and open shadow regions are discarded (R128, R276). -/
def State.abort (s : State) (id : LaunchId) (status : Nat) : State :=
  let mine := s.memory.shadows.filter fun r => r.launch == id
  (mine.foldl State.discardShadow s).finishLaunch id status

/-! ### Meetings (R83, R84, R413) -/

/-- A task arrives at its chip barrier; with the last arrival the communication step begins (R120). -/
def State.atBarrier (s : State) (id : LaunchId) (l : Launch) : State :=
  if l.arrived.length + l.ended.length < l.n then s.setLaunch id l
  else (s.setLaunch id { l with phase := .comm }).push (.communicationStep id)

/-- What END leaves of a task: its open group is discarded, tokens and updates with it; an open ring goes on as after CHN.END
(R83, R167, R353). -/
def State.endTask (s : State) (k : CoreId) (t : TaskId) (x : Task) (l : Launch) : State :=
  let s := s.setCore k { s.core k with fifo := [], upds := [], made := .const 0, known := .const (.const 0) }
  let s := s.setTask t { x with group := none, reports := [] }
  let s := match x.ring with
    | some r =>
      if r.broken || decide (r.n ≤ r.sent + 1) then s.closeRing t r
      else (s.setRing t (some { r with nexts := r.n - 2, closing := true })).pushSends t r
    | none => s
  s.atBarrier x.launch { l with ended := insertNat l.ended x.role }

/-- A meeting fault is raised by the lowest-numbered engine that has not stopped at END (R84, R389). -/
def State.meetingFault (s : State) (k : CoreId) : State :=
  let c := s.core k
  let e := (Eng.all.find? fun e => c.wait.get e != .ended).getD .f
  s.takeFault k e (mkTrap .meeting)

/-- The meeting of core k, once all four engines stand at meeting words (R83, R84, R413). -/
def State.meet (s : State) (k : CoreId) : State :=
  let c := s.core k
  let even := Eng.all.all fun e => c.pass.get e == c.pass.f
  let all (op : Nat) : Bool := Eng.all.all fun e => match c.wait.get e with | .meet o => o % 256 == op | _ => false
  if !c.standing then s
  else match s.taskOf k with
    | none => s
    | some (t, x, l) =>
      if Eng.all.all fun e => c.wait.get e == .ended then s.endTask k t x l
      else if !even then s.meetingFault k
      else if all 43 then
        let s := (s.setCore k c.deliverAll).strike t
        match s.launch x.launch with
        | some l => if l.copying x.role then s else s.leaveHop t
        | none => s
      else if all 44 then s.atBarrier x.launch { l with arrived := insertNat l.arrived x.role }
      else if all 48 then
        let n := match c.wait.f with | .meet o => o / 256 | _ => 0
        let c := c.deliverAll
        -- every engine has executed the word (R31)
        let c := { c with pass := c.pass.map (· + 1) }
        let s := s.setCore k c
        match c.mode with
        | .control => s.enterRoot k (256 + n) (c.getS .f 1) (c.pc.f + 32)
        | _ => s.enterRoot k (512 + n) (c.getS .f 1) (c.pc.f + 32)
      else if all 49 then (s.setCore k c.deliverAll).eret k
      else if all 51 then
        let s := s.setCore k c.deliverAll
        let mine := [k, queueWake (s.queueOf k)]
        if s.edge.wakes.any mine.contains then
          (s.setEdge { s.edge with wakes := s.edge.wakes.filter fun n => !mine.contains n }).passAll k
        else s
      else s.meetingFault k

end Sys2Proof.Machine
end

