-- ==== Sys2Proof/Machine/Launch.lean ====
section
/-! DEFINITION. The launch scheduler: appends, periods, issues, launch starts, the communication step and the boundary, finish,
watchdog and pre-emption (R120, R121, R130 to R132, R257 to R280, R394, R406). -/

namespace Sys2Proof.Machine

/-! ### The communication step (R120, R121, R130, R164) -/

/-- The bits of one end of a COPY; those of an object page come from its highest copy (R289). -/
def State.readPlace (s : State) (id : LaunchId) (bits : Nat) : Place → Except Stop (Nat × State)
  | .mem va gs => s.readPages va bits gs
  | .pad role ofs => s.taskPad (id * 256 + role) ofs bits
  | .wst _ _ => .ok (0, s)

def State.writePlace (s : State) (id : LaunchId) (bits x : Nat) : Place → Except Stop State
  | .mem _ gs => s.writeSegs gs x
  | .pad role ofs => s.setTaskPad (id * 256 + role) ofs bits x
  | .wst role ofs => s.setTaskWst (id * 256 + role) ofs bits x

/-- rne(a + b) in a window's type on codes (R130). -/
def addIn (t : Ty) (a b : Nat) : Nat := (rndOf t .rne false ((valOf t a).add false (valOf t b))).1

/-- The contributions of a window in the order of its table: the i-th RED of a role at its i-th listing (R130). -/
def RedWin.admitted (w : RedWin) : List (List Nat) :=
  (w.table.zipIdx).filterMap fun (role, j) =>
    let i := ((w.table.take j).filter (· == role)).length
    ((w.got.filter fun g => g.1 == role)[i]?).map (·.2)

/-- The folded partial of a window, element by element; none without a contribution (R130). -/
def RedWin.partialSum (w : RedWin) : Option (List Nat) :=
  match w.admitted with
  | [] => none
  | x :: xs => some (xs.foldl (fun acc y => List.zipWith (addIn w.ty) acc y) x)

/-! What stack engines send of a window follows the contributions of the table, and reaches only some elements (R447; log 14). -/

/-- Byte offset in DRAM of the first element of a window's dest, in its home module. -/
def RedWin.at (w : RedWin) : Nat := (w.dest.headD (0, 0)).1 / 8 % 1099511627776

/-- Something that a link has brought concerns a window of partition p: flits name it by its first element (R441; log 14). -/
def RedWin.named (w : RedWin) (p : Nat) (x : Gathered) : Bool := x.part == p && x.addr == w.at

/-- The code of -0, which stands for an element without a contribution: it changes no sum of R130 (log 14). -/
def noTerm (t : Ty) : Nat := 2 ^ (t.width - 1)

/-- The elements that a window's contributions make, by element; none where nothing contributes (R130, R447). -/
def State.windowSum (s : State) (p : Nat) (w : RedWin) : List (Option Nat) :=
  let own : List (Option Nat) := match w.partialSum with
    | some xs => xs.map some
    | none => List.replicate w.n none
  let size := w.ty.width / 8
  (s.edge.partials.filter fun x => x.what == .ofEngine && x.part == p).foldl (fun acc x =>
    acc.zipIdx.map fun (y, i) =>
      let at_ := w.at + i * size
      if x.addr ≤ at_ ∧ at_ + size ≤ x.addr + x.data.length then
        let c := natOfBytes ((x.data.drop (at_ - x.addr)).take size)
        some (match y with | some a => addIn w.ty a c | none => c)
      else y) own

/-- dest := rne(dest + acc), where there is an acc (R130). -/
def State.addTo (s : State) (gs : List Seg) (t : Ty) (xs : List (Option Nat)) : Except Stop State :=
  if xs.all Option.isNone then .ok s
  else do
    let r ← s.readSegs gs
    let old := unpack t.width xs.length r.1
    r.2.writeSegs gs (pack t.width (List.zipWith (fun a c => match c with | some c => addIn t a c | none => a) old xs))

/-- The dest of a window lies on this module. -/
def State.atHome (s : State) (w : RedWin) : Bool := !isRemote s (w.dest.headD (0, 0))

/-- TAG of a piece of a partial, with the narrow type that it holds, and TAG of a null (log 14). -/
def pieceTag (t : Ty) (i : Nat) : Nat := i + (if t == .f16 then 2048 else 0)
def nullTag : Nat := 4095

/-- The REDP flits of a spanning window's partial to its home module: pieces of 112 bytes of elements, or one null. An element without a
contribution, and one past the end of the window, goes as -0 (R132, R446; log 14). -/
def State.redFlits (s : State) (p : Nat) (w : RedWin) : List Flit :=
  let acc := if s.atHome w then s.ownAcc else accOf ((w.dest.headD (0, 0)).1 / 8)
  let mk (tag : Nat) (data : List Byte) : Flit :=
    { s.flit p 5 acc (w.at / 16 * 16) data with
      tag := BitVec.ofNat 12 tag, nsec := BitVec.ofNat 3 (w.at % 16 / 4 + (if w.ty.width = 16 then 4 else 0)) }
  let xs := s.windowSum p w
  if xs.all Option.isNone then [mk nullTag []]
  else
    let per := 896 / w.ty.width
    (groupsOf per (xs.map fun x => x.getD (noTerm w.ty))).zipIdx.map fun (ys, i) =>
      mk (pieceTag w.ty i) (bytesOfNat 112 (pack w.ty.width (ys ++ List.replicate (per - ys.length) (noTerm w.ty))))

/-- Sends a spanning window's partial to the switch. -/
def State.sendPartial (s : State) (p : Nat) (w : RedWin) : State := (s.redFlits p w).foldl (fun s f => s.send f) s

/-- The unit whose scratchpad a COPY reads, while its task holds one and has not ended (R164). -/
def Cmd.reader (c : Cmd) (id : LaunchId) (s : State) : Option CoreId :=
  match c.work with
  | .copy (.pad role _) _ _ =>
    match s.task (id * 256 + role), s.launch id with
    | some x, some l => if x.saved.isNone && !l.ended.contains role then some x.core else none
    | _, _ => none
  | _ => none

/-- Runs one command (R121). A RED writes its window at the place of the window's last RED in the step; a window that spans
modules sends its partial instead. -/
def State.runCmd (s : State) (id : LaunchId) (l : Launch) (c : Cmd) (rest : List Cmd) : Except Stop State :=
  match c.work with
  | .copy src dst bits => do
    let r ← s.readPlace id bits src
    r.2.writePlace id bits r.1 dst
  | .red a =>
    if rest.any fun y => y.work == .red a then .ok s
    else match l.wins.find? fun w => w.rcd == a with
      | none => .ok s
      | some w => if w.spans then .ok (s.sendPartial l.part w) else s.addTo w.dest w.ty (s.windowSum l.part w)

/-- Elements of one piece of a merged result: 112 bytes (R441). -/
def RedWin.perPiece (w : RedWin) : Nat := 896 / w.ty.width

/-- The merged result of a spanning window at home has come, piece by piece (R446). -/
def State.mergeCame (s : State) (p : Nat) (w : RedWin) : Bool :=
  let mine := s.edge.partials.filter (w.named p)
  (mine.any fun x => x.what == .nothing) ||
    (List.range ((w.n + w.perPiece - 1) / w.perPiece)).all fun i => mine.any fun x => x.what == .merged && x.piece == i

/-- The switch has given a window at home up (R446). -/
def State.mergeLost (s : State) (p : Nat) (w : RedWin) : Bool :=
  w.spans && s.atHome w && s.edge.partials.any fun x => w.named p x && x.what == .lost

/-- A spanning window still awaits the switch: at home its result; elsewhere the module learns of the end of the reduction at a time the
model leaves free (R132, R446; log 2). -/
def State.awaitsMerge (s : State) (p : Nat) (w : RedWin) : Bool :=
  w.spans && if s.atHome w then !s.mergeCame p w && !s.mergeLost p w else s.choose (24576 + w.rcd) 2 != 0

/-- Adds the merged result of a spanning window to its dest at home, after every command of the step (R130, R132). -/
def State.addMerged (s : State) (p : Nat) (w : RedWin) : Except Stop State :=
  if !w.spans || !s.atHome w then .ok s
  else
    let mine := s.edge.partials.filter (w.named p)
    if mine.any fun x => x.what == .nothing then .ok s
    else
      let piece (i : Nat) : List Nat := match mine.find? fun x => x.what == .merged && x.piece == i with
        | some x => unpack w.ty.width w.perPiece (natOfBytes x.data)
        | none => []
      let xs := ((List.range ((w.n + w.perPiece - 1) / w.perPiece)).flatMap piece).take w.n
      s.addTo w.dest w.ty (xs.map some)

/-- A window of partition p that a launch here has named with a RED, now or in an earlier superstep (R132). -/
def State.knowsWindow (s : State) (p : Nat) (x : Gathered) : Bool :=
  s.sched.launches.any fun l => l.2.part == p && (l.2.wins ++ l.2.spanning).any fun w => w.spans && w.named p x

/-- The elements of a piece, with their byte offsets in DRAM, to which something contributes. -/
def Gathered.terms (x : Gathered) : List (Nat × Nat) :=
  ((unpack x.ty.width (896 / x.ty.width) (natOfBytes x.data)).zipIdx.filter fun y => y.1 != noTerm x.ty).map fun (v, i) =>
    (x.addr + 112 * x.piece + i * x.ty.width / 8, v)

/-- Adds a piece of the merged result of a window that no launch here has named to memory, element by element (R130, R132). -/
def State.addPiece (s : State) (x : Gathered) : Except Stop State :=
  s.asDevice outsideAsker x.part fun s => eachM (fun (s : State) y => s.addTo [(8 * y.1, x.ty.width)] x.ty [some y.2]) x.terms s

/-- The pieces of such windows that a communication step of the partition has held back are added after its commands; what cannot be added
leaves a record (R132; log 22). -/
def State.addUnnamed (s : State) (p : Nat) : State :=
  let mine := s.edge.partials.filter fun x => x.what == .merged && x.part == p && !s.knowsWindow p x
  if mine.isEmpty then s
  else
    mine.foldl (fun s x => match s.addPiece x with | .ok t => t | .error _ => s.deviceRecord true 0 5 37)
      (s.setEdge { s.edge with partials := s.edge.partials.filter fun x => !mine.contains x })

/-! ### Release and boundary -/

/-- A task goes on from STEP into the next superstep: STEPN rises, and its reports are placed (R83, R294). -/
def Core.nextStep (c : Core) (reports : List (Word × Word × Word)) : Core :=
  let c := reports.foldl Core.report c
  (c.setCAll 4 (c.getC .f 4 + 1)).passMeeting

/-- Releases a launch from its chip barrier: a new superstep begins (R83, R120, R275, R394). -/
def State.release (s : State) (id : LaunchId) : State :=
  match s.launch id with
  | none => s
  | some l =>
    let s := s.setLaunch id { l with arrived := [], cmds := [], ran := none, wins := [], phase := .running, released := s.ccnt, charged := 0 }
    l.arrived.foldl (fun s role =>
      let t := id * 256 + role
      match s.task t with
      | none => s
      | some x =>
        let y := { x with cmdPos := 0, reports := [] }
        let s := ((s.setTask t y).modTaskCore t y fun c => c.nextStep x.reports).beginRecord t
        match x.ring with
        | some _ => s.pushOnce (.churnStepSend t)
        | none => s) s

/-- What the links brought for a launch's windows in a step is spent. -/
def State.spendPartials (s : State) (l : Launch) : State :=
  if s.edge.partials.isEmpty then s
  else
    let spent (x : Gathered) : Bool := l.wins.any fun w =>
      match x.what with
      | .ofEngine => x.part == l.part && decide (w.at ≤ x.addr) && decide (x.addr < w.at + w.n * w.ty.width / 8)
      | _ => w.spans && w.named l.part x
    s.setEdge { s.edge with partials := s.edge.partials.filter fun x => !spent x }

/-- The end of a communication step: the shadows publish, pending hand-overs strike, and the launch is held for its release or
finishes, in which case a pending pre-emption is dropped (R83, R120, R274, R280, R404). Firmware is released at once. -/
def State.endStep (s : State) (id : LaunchId) (l : Launch) : State :=
  let s := s.spendPartials l
  match l.doom with
  | some st => s.abort id st
  | none =>
    let mine := s.memory.shadows.filter fun r => r.launch == id
    let s := mine.foldl State.publish s
    let spanning := (l.wins.filter fun w => w.spans).map fun w => { w with got := [] }
    let s := s.setLaunch id { l with phase := .held, cmds := [], spanning := spanning }
    let s := l.arrived.foldl (fun s role =>
      match s.task (id * 256 + role) with
      | some x => (s.modTaskCore (id * 256 + role) x Core.deliverAll).strike (id * 256 + role)
      | none => s) s
    if 1024 ≤ id then s.release id
    else if l.arrived.isEmpty then
      let s := if l.preempt = .pending then
          (match s.launch id with | some l => s.setLaunch id { l with preempt := .none } | none => s).deviceRecord false l.part 7 l.queue
        else s
      s.push (.launchFinish id)
    else
      let s := if l.preempt = .pending then s.push (.preemptionStrike id) else s
      s.pushOnce .schedulerIssue

/-- The place of a command in the sort order: not-before time, role, position (R121). -/
def Cmd.key (c : Cmd) : Nat × Nat × Nat := (c.notBefore, c.role, c.pos)

/-- One place of the sort order does not come after another (R121). -/
def sorts (a b : Nat × Nat × Nat) : Bool :=
  if a.1 ≠ b.1 then decide (a.1 < b.1) else if a.2.1 ≠ b.2.1 then decide (a.2.1 < b.2.1) else decide (a.2.2 ≤ b.2.2)

/-- The mode of the tasks of a launch (R12, R411). -/
def modeOf (id : LaunchId) : Mode := if id < 1024 then .tile else if id = 1044 then .root else .control

/-- A spanning window of an earlier superstep with its dest as it is mapped now (R132, R371); none where it cannot be written any more. -/
def State.mapAgain (s : State) (id : LaunchId) (p : Nat) (w : RedWin) : Option RedWin :=
  match s.resolveAs (modeOf id) p .write [(w.base, w.n * w.ty.width)] with
  | .ok gss => some { w with dest := gss.headD [] }
  | .error _ => none

/-- COMMUNICATION_STEP: every task has arrived, and the commands are put in sort order (R120, R121). A window that spans modules, known
from an earlier superstep, to which no RED contributes in this one sends a null partial (R130, R132); one whose dest can no longer be written
dooms the launch (R404). The module learns of a window from its first RED: it can send no null before (DESIGN CHOICE, log 22). A step that a
task has left goes on after the last command that it has run (log 17). -/
def execCommunicationStep (id : LaunchId) (s : State) : Out1 :=
  match s.launch id with
  | none => .next s
  | some l =>
    if l.phase ≠ .comm || l.preempt = .saved then .next s
    else
      let before (a b : Cmd) : Bool := sorts a.key b.key
      let todo := l.cmds.filter fun c => match l.ran with | some k => !sorts c.key k | none => true
      let sorted := todo.foldr (fun c acc => (acc.takeWhile fun y => !before c y) ++ c :: acc.dropWhile fun y => !before c y) []
      let quiet := l.spanning.filter fun w => !(l.wins.any fun v => v.rcd == w.rcd)
      let now := quiet.filterMap (s.mapAgain id l.part)
      let s := now.foldl (fun s w => s.sendPartial l.part w) s
      .next ((s.setLaunch id { l with
        cmds := sorted, wins := l.wins ++ now, spanning := []
        doom := if now.length = quiet.length then l.doom else some 2 }).pushOnce (.bteCommand id))

/-- The end of a communication step in which every command has run: merged results are added to their windows, and the step ends. A
reduction that the switch has given up dooms the launch (R132, R446). -/
def State.closeStep (s : State) (id : LaunchId) (l : Launch) : Out1 :=
  if l.doom.isSome then .next (s.endStep id l)
  else if l.wins.any (s.mergeLost l.part) then .next (s.endStep id { l with doom := some 2 })
  else if l.wins.any (s.awaitsMerge l.part) then .next s
  else match s.asDevice (stepAsker id) l.part fun s => eachM (fun (s : State) w => s.addMerged l.part w) l.wins s with
    | .ok s => .next ((s.addUnnamed l.part).endStep id l)
    | .error (.wait s) => .next s
    | .error (.trap _) => .next (s.endStep id { l with doom := some 2 })

/-- BTE_COMMAND: the next command of a communication step runs, once SCLK has reached its not-before time; after the last the
step ends (R121). An uncorrectable sector or a refused remote access ends the command and dooms the launch (R404); an uncorrectable SRAM word
of the scratchpad it reads stops the task that holds it, and the step waits for that task's replay (R405; log 17). A saved launch's step stands
still until the resume (R279). -/
def execBteCommand (id : LaunchId) (s : State) : Out1 :=
  match s.launch id with
  | none => .next s
  | some l =>
    if l.phase ≠ .comm || l.preempt = .saved then .next s
    else match l.cmds with
      | [] => s.closeStep id l
      | c :: rest =>
        if (s.ccnt - l.released).toNat < c.notBefore then .next s
        else
          let on (s : State) (doom : Option Nat) : State :=
            match s.launch id with
            | some l => ((s.dropAsks (stepAsker id)).setLaunch id { l with cmds := rest, ran := some c.key, doom := doom }).pushOnce (.bteCommand id)
            | none => s
          match s.asDevice (stepAsker id) l.part fun s => s.runCmd id l c rest with
          | .ok t => .next (on t ((t.launch id).bind (·.doom)))
          | .error (.wait s) => .next s
          | .error (.trap f) =>
            match f.cls == Cls.storage.code, c.reader id s with
            | true, some k => .next ((s.dropAsks (stepAsker id)).tornFault k)
            | _, _ => .next (on s (some 2))

/-- LAUNCH_FINISH: every task has stopped at END and its last communication step is done (R83, R276). It waits for the sends of
rings that are still open (R353). -/
def execLaunchFinish (id : LaunchId) (s : State) : Out1 :=
  match s.launch id with
  | some l =>
    if l.ending.isSome then .next (s.endLaunch id)
    else
    let rings := s.sched.tasks.filterMap fun x => match x.2.ring with
      | some r => if x.2.launch == id && !r.broken then some (x.1, r) else none
      | none => none
    if id < 1024 && l.phase == .held && l.ended.length == l.n then
      if rings.isEmpty then .next (s.finishLaunch id 0)
      else .next ((rings.foldl (fun s x => s.pushSends x.1 x.2) s).push (.launchFinish id))
    else .next s
  | none => .next s

/-- LAUNCH_ABORT: scheduler firmware aborts the running launch of a queue with status 3, or the device ends one whose task
has met a replay divergence with status 2 (R276, R398). -/
def execLaunchAbort (p : PartId) (q : Fin 64) (s : State) : Out1 :=
  let id := 64 * p.val + q.val
  let diverged := s.sched.tasks.any fun x => x.2.launch == id &&
    (match x.2.saved with | some y => y.2 | none => (s.core x.2.core).stopped) == some Cls.divergence.code
  .next (s.abort id (if diverged then 2 else 3))

/-- QUEUE_RESET: pending records are discarded with status 3; counts and the running launch stay (R264, R280). -/
def State.resetQueue (s : State) (p q : Nat) : State :=
  let x := s.queue (64 * p + q)
  let s := s.setQueue (64 * p + q) { x with pending := [] }
  x.pending.foldl (fun s r =>
    let ctl := r.2.getD 2 0
    s.countFinish p q r.1 (ctl.getLsbD 8) (r.2.getD 6 0) (r.2.getD 7 0) 3) s

def execQueueReset (p : PartId) (q : Fin 64) (s : State) : Out1 := .next (s.resetQueue p.val q.val)

/-- APPEND (R258, R259). -/
def execAppend (p : PartId) (q : Fin 64) (ws : List Word) (s : State) : Out1 := .next (s.appendRecord p.val q.val ws)

/-! ### Launch start (R261, R262, R266, R267) -/

/-- What the requests of the scheduler for queue i to other modules are filed under (log 1). -/
def schedAsker (i : Nat) : CoreId := 2200000 + i

/-- Bits of a partition's mapped memory as the scheduler reads them; none outside it (R262). What cannot be read for an uncorrectable
sector, a lost stack or die or a refused remote access counts as outside (DESIGN CHOICE, log 13). -/
def State.schedRead (s : State) (va bits : Nat) : Except Stop (Option Nat × State) :=
  if 2 ^ 58 < va + bits then .ok (none, s)
  else match s.resolve .none [(va, bits)] with
    | .ok gss =>
      match s.readPages va bits (gss.headD []) with
      | .ok (v, t) => .ok (some v, t)
      | .error (.trap _) => .ok (none, s)
      | .error e => .error e
    | .error _ => .ok (none, s)

/-- The header and the n binding entries of a launch record, as far as they can be read. -/
def State.readRecord (s : State) (i p hdr bindAt n : Nat) : Except Stop ((Option Nat × Option Nat) × State) :=
  s.deviceRead (schedAsker i) p fun s => do
    let h ← s.schedRead hdr 2048
    let tb ← h.2.schedRead bindAt (32 * n)
    .ok ((h.1, tb.1), tb.2)

/-- Where the text of a task lies in memory of this module, also behind its own remote window (R24, R34, R50). -/
def State.textOf (s : State) (p va words : Nat) : List (Nat × Nat) :=
  (pagePieces va (32 * words)).filterMap fun x =>
    match s.pageOf .tile p (x.1 / 524288) .none with
    | .ok base =>
      let a := base + x.1 % 524288 / 8
      if s.region base != .remote then some (a, (x.2 + 7) / 8)
      else if accOf a = s.ownAcc then some (a % 1099511627776, (x.2 + 7) / 8) else none
    | .error _ => none

/-- SCL and TYPE of a bank format that may stand together, and no reserved RND or SCL (R184, R185). In a task header RND = 3 rejects the launch
as a nonzero reserved field does: R51 names only those (DESIGN CHOICE, log 13). -/
def bankFieldsOk (v : Nat) : Bool :=
  let t := Ty.ofCode (v % 16)
  field v 6 2 != 3 &&
    (match field v 4 2 with
     | 0 => true
     | 1 => t.isMk
     | 2 => t.isMk || t == .i8 || t == .n8 || t == .i16 || t == .n16
     | _ => false)

/-- A bank format without reserved bits or values (R184, R185). -/
def bankWordOk (v : Nat) : Bool := bankFieldsOk v && field v 9 7 == 0 && decide (v < 4294967296)

/-- The limits and reserved fields of a task header (R50, R51). -/
def headerOk (h : Nat) : Bool :=
  let w (i : Nat) : Nat := field h (64 * i) 64
  decide (1 ≤ w 0) && decide (w 0 ≤ 16777216) && decide (w 1 < w 0) && decide (1 ≤ w 2) && decide (w 2 ≤ 65535) &&
    decide (w 3 < 65536) && (List.range 12).all (fun i => w (20 + i) == 0) &&
    (List.range 16).all fun k => !(w 3).testBit k || bankWordOk (w (4 + k))

/-- A core at the start of a task (R267): what it holds stays, but for program counters, scalars, CSRs, tokens and updates. -/
def Core.startState (c : Core) (t : TaskId) (p : Nat) (ent role : Nat) (group arg pc : Word) (h : Nat) : Core :=
  let w (i : Nat) : Nat := field h (64 * i) 64
  let base : Core := { c with
    pc := .const pc, pass := .const 0, scal := [], csr := [], fifo := [], upds := [], made := .const 0
    known := .const (.const 0), wait := .const .run, popped := .const [], fBar := .idle, wBar := .idle, kcache := []
    parts := [], staged := none, mode := .tile, part := p, owner := some t, stopped := none, holder := [] }
  let fixed := [(0, wOf role), (1, group), (2, wOf (entCore ent / 256)), (3, wOf (entCore ent % 256)), (16, wOf (w 2)),
    (17, 4194320#64), (23, 1#64)] ++
    (List.range 16).map fun k => (32 + k, if (w 3).testBit k then wOf (w (4 + k)) else 0)
  let c := fixed.foldl (fun (c : Core) (x : Nat × Word) => c.setCAll x.1 x.2) base
  Eng.all.foldl (fun c e => c.setS e 1 arg) c

/-- Begins the launch of a queue's head record, or rejects it (R262, R266, R267). While its header or table is read from another module
the record waits. -/
def State.startLaunch (s : State) (i : Nat) : State :=
  let p := i / 64
  let q := i % 64
  let x := s.queue i
  match x.pending with
  | [] => s
  | (seq, ws) :: rest =>
    let ctl := ws.getD 2 0
    let hdr := (ws.getD 0 0).toNat
    let bindAt := ws.getD 1 0
    let n := wField ctl 0 8 + 1
    let take (s : State) : State := s.setQueue i { s.queue i with pending := rest, since := none }
    let reject (s : State) (kind a b : Nat) : State :=
      ((take s).record false p (kindRecord kind p q seq a b 0)).countFinish p q seq (ctl.getLsbD 8) (ws.getD 6 0) (ws.getD 7 0) 1
    if !recordFields ws then reject s 1 seq 1
    else if hdr % 2048 ≠ 0 || bindAt.toNat % 32 ≠ 0 then reject s 1 seq 2
    else match s.readRecord i p hdr bindAt.toNat n with
      | .error (.wait t) => t.pushOnce .schedulerIssue
      | .ok ((some h, some tb), s) =>
        if !headerOk h then reject s 1 seq 3
        else
          let ents := unpack 32 n tb
          match s.badRole p ents with
          | some r => reject s 2 r (ents.getD r 0)
          | none =>
            let s := take s
            let l : Launch := { Launch.firmware 0 with
              part := p, queue := q, seq := seq, hdr := ws.getD 0 0, n := n, table := ents.map wOf, bindAt := bindAt
              text := s.textOf p (hdr + 2048) (field h 0 64)
              group := ws.getD 3 0, arg := ws.getD 4 0, cv := ctl.getLsbD 8, cref := ws.getD 6 0, cphs := ws.getD 7 0
              wdg := wField ctl 16 32, order := s.sched.starts, released := s.ccnt, slots := (s.freeSlots p).take n }
            let s := { s.setLaunch i l with sched := { (s.setLaunch i l).sched with starts := s.sched.starts + 1 } }
            let pc := wOf (hdr + 2048 + 32 * field h 64 64)
            (ents.zipIdx).foldl (fun s (ent, role) =>
              let t := i * 256 + role
              let s := s.setCore (entCore ent) ((s.core (entCore ent)).startState t p ent role l.group l.arg pc h)
              (s.setTask t (Task.start i role (entCore ent))).beginRecord t) s
      | .ok (_, s) => reject s 1 seq 2
      | .error (.trap _) => reject s 1 seq 2

/-! ### Issues (R265, R266, R268, R271 to R273) -/

/-- The issue that R273 chooses among ready ones with allowance. -/
def State.choice (s : State) (is : List Nat) : Option Nat :=
  let late := is.filter fun i =>
    let q := s.queue i
    !q.issued && (match q.since with | some t => decide (45000 ≤ (s.ccnt - t).toNat) | none => false)
  let is := if late.isEmpty then is else late
  match (List.range 4).find? fun k => is.any fun i => (s.queue i).pri == k with
  | none => none
  | some k =>
    let level := is.filter fun i => (s.queue i).pri == k
    let last := s.sched.rr.getD k 0
    (level.find? fun i => decide (last ≤ i)).orElse fun _ => level.head?

/-- SCHEDULER_ISSUE: at most one issue, none within 16 cycles of the last, and another event for the next one while issues are ready
(R273, R281). -/
def execSchedulerIssue (s : State) : Out1 :=
  let s := s.readied
  match s.choice s.issuable with
  | none => .next s
  | some i =>
    if s.issueGap ≠ 0 then .next (s.pushOnce .schedulerIssue)
    else
      let q := s.queue i
      let k := q.pri
      let s := s.setQueue i { q with issued := true, since := none }
      let s := { s with sched := { s.sched with rr := s.sched.rr.set k (i + 1), lastIssue := some s.ccnt } }
      .next ((if (s.launch i).isSome then s.release i else s.startLaunch i).pushOnce .schedulerIssue)

/-- PERIOD_BOUNDARY: balances, debts and the pool; queue configuration words take effect (R263, R271, R272). -/
def execPeriodBoundary (s : State) : Out1 :=
  let idle (x : Nat × Queue) : Bool := x.2.idle && (s.part (x.1 / 64)).lend
  let qs := s.sched.queues.map fun x => (x.1, { x.2 with cfg := x.2.next })
  let pool := ((s.sched.queues.filter idle).map fun x => (s.queue x.1).next).foldl (fun n v => n + wField v 32 32) 0
  let qs := qs.map fun (x : Nat × Queue) =>
    let q := x.2
    let repay := min q.debt (q.allow / 4)
    (x.1, { q with
      balance := min q.balance 0 + q.allow - repay, debt := q.debt - repay, issued := false
      idle := q.pending.isEmpty && (s.launch x.1).isNone })
  .next (({ s with sched := { s.sched with queues := qs, pool := pool } } : State).pushOnce .schedulerIssue)

/-! ### Watchdog and pre-emption (R278 to R280, R406) -/

/-- WATCHDOG_FAULT: every task that stands neither at STEP nor at END takes the fault (R278, R389). -/
def execWatchdogFault (id : LaunchId) (s : State) : Out1 :=
  match s.launch id with
  | none => .next s
  | some l =>
    if !s.expired id l then .next s
    else .next (s.sched.tasks.foldl (fun s x =>
      if x.2.launch != id || l.arrived.contains x.2.role || l.ended.contains x.2.role then s
      else
        let c := s.core x.2.core
        let e := (Eng.all.find? fun e => match c.wait.get e with | .ended => false | .meet o => o != 44 | _ => true).getD .f
        s.takeFault x.2.core e (mkTrap .watchdog)) s)

/-- Saves every task of a launch that still has a unit (R406). One that is saved inside a superstep may leave an XCPY abandoned (R407). -/
def State.saveLaunch (s : State) (id : LaunchId) : State :=
  let s := s.sched.tasks.foldl (fun s x =>
    if x.2.launch == id then (if x.2.saved.isNone then s.breakOff x.2.core else s).saveTask x.1 else s) s
  match s.launch id with
  | some l => s.setLaunch id { l with preempt := .saved }
  | none => s

/-- PREEMPTION_STRIKE: a requested pre-emption strikes at a boundary, in a communication step, 50 µs after its request, or when the watchdog
limit runs out, unless the launch makes its final arrival (R279, R280). A hand-over in progress is completed first. -/
def execPreemptionStrike (id : LaunchId) (s : State) : Out1 :=
  match s.launch id with
  | none => .next s
  | some l =>
    if l.preempt ≠ .pending then .next s
    else if l.ended.length = l.n then .next ((s.setLaunch id { l with preempt := .none }).deviceRecord false l.part 7 l.queue)
    else if !l.moving.isEmpty || (l.phase == .running && !s.overdue l && !s.expired id l) then .next s
    else .next (s.saveLaunch id)

/-- PREEMPTION_DEADLINE: instructions that have not retired 25 µs after a forced strike are abandoned or completed into the image. An
instruction of this model is whole or waits: `saveTask` has abandoned the waiting ones, or goes on with them, and what those have left goes
into the image (R406, R407; log 17). -/
def execPreemptionDeadline (id : LaunchId) (s : State) : Out1 :=
  execPreemptionStrike id (s.sched.tasks.foldl (fun s x => if x.2.launch == id then s.land x.1 else s) s)

end Sys2Proof.Machine
end

