-- ==== Sys2Proof/Machine/Engine.lean ====
section
/-! DEFINITION. Steps of an engine apart from instructions: skipping a word, an illegal word, tokens, a token deadlock, the return
of a part of a split product, a prefetch's report, and a lower tier that is late (R30, R40, R99, R106, R156, R216, R309). -/

namespace Sys2Proof.Machine

/-- SKIP_WORD: the engine passes a word of another engine (R30, R31). -/
def execSkipWord (long : Bool) (s : State) : Out1 := .next (s.passX (if long then 2 else 1))

/-- The sub-cause of an illegal word (R40): 1 to 7. -/
def IllSub.code (x : IllSub) : Nat := x.ctorIdx + 1

/-- ILLEGAL_INSTRUCTION (R40): the engine that decodes the word raises the fault. -/
def execIllegalInstruction (e : Eng) (sub : IllSub) (s : State) : Out1 :=
  .next (s.takeFault s.cur e { mkTrap .illegal with sub := IllSub.code sub })

/-- TOKEN_POP: the engine pops one token from every FIFO its word pops from, or waits until all hold one (R99). -/
def execTokenPop (e : Eng) (wb wa : Bool) (s : State) : Out1 :=
  let fs := popsOf e ⟨wb, wa, false, false⟩
  match s.takeTokens s.cur e fs with
  | some t => .next t
  | none => .next (s.setWait s.cur e (.pop (maskOf fs)))

/-- TOKEN_PUSH: the engine makes the pushes of its last instruction that have room, and stalls on the others (R99). -/
def execTokenPush (e : Eng) (s : State) : Out1 :=
  match s.me.wait.get e with
  | .push m => .next (s.setMe (s.me.pushTokens e (ofMask m)))
  | _ => .next s

/-- TOKEN_DEADLOCK_FAULT, raised by the lowest-numbered engine that has not stopped at END (R106, R107). -/
def execTokenDeadlockFault (s : State) : Out1 :=
  let c := s.me
  if c.deadlocked then
    .next (s.takeFault s.cur ((Eng.all.find? fun e => c.wait.get e != .ended).getD .f) (mkTrap .deadlock))
  else .next s

/-- Core k is at an instruction of engine e that has not retired. -/
def State.atInstruction (s : State) (k : CoreId) (e : Eng) : Bool :=
  let c := s.core k
  c.owner.isSome && c.stopped.isNone && (match c.wait.get e with | .run | .memory => true | _ => false)

/-- An access of the instruction at which an engine stands fails: it takes the fault when it makes the access, after its checks (R309,
R449). -/
def State.failAccess (s : State) (k : CoreId) (e : Eng) (stack : Option Nat) (cls : Nat) : State :=
  if s.atInstruction k e then s.setEdge { s.edge with late := s.edge.late ++ [⟨k, e, (s.core k).pc.get e, stack, cls⟩] } else s

/-- The units whose parts of the split MMA or MMAI at which core k waits have not returned (R216). -/
def State.awaitedParts (s : State) (k : CoreId) : List CoreId :=
  let t := { s.setCore k ((s.core k).hear .m) with cur := k, eng := .m }
  let of_ (x : VW) : List CoreId :=
    match t.tile x with
    | .ok q => (t.holders x.ty q).filter fun h => !(s.core k).parts.contains h
    | .error _ => []
  if !s.atInstruction k .m || (s.core k).wait.m != .memory then []
  else match (s.core k).heldAt .m with
    | some (.mma x) => of_ x
    | some (.mmai x) => of_ x
    | _ => []

/-- PARTS_REQUEST_RETURN: the part of the MMA or MMAI of core k that a unit holds has returned (R216). A unit in a watchdog reset
fails the request (R302). -/
def execPartsRequestReturn (k holder : CoreId) (s : State) : Out1 :=
  if !(s.awaitedParts k).contains holder then .next s
  else if s.edge.inReset.contains holder then .next (s.takeFault k .m (mkTrap .lowerTier))
  else .next (s.setCore k { s.core k with parts := insertNat (s.core k).parts holder })

/-- Brings the pages of a prefetch into L2 one after the other, as the mode that queued it reaches them: its status (R156, R411). -/
def State.prefetchPages (m : Mode) (p : Nat) : List (Nat × Nat) → State → State × Nat
  | [], s => (s, 0)
  | x :: rest, s =>
    match s.pageOf m p (x.1 / 524288) .read with
    | .error .translation => (s, 1)
    | .error _ => (s, 2)
    | .ok base =>
      match s.reach m p (base * 8 + x.1 % 524288, x.2) with
      | .error _ => (s, 2)
      | .ok g => State.prefetchPages m p rest (s.touchSegs [g])

/-- PREFETCH_ARRIVAL: the oldest queued prefetch is done and reports (R156, R134). -/
def execPrefetchArrival (s : State) : Out1 :=
  match s.movers.prefetches with
  | [] => .next s
  | y :: rest =>
    let x := State.prefetchPages y.mode y.part (pagePieces y.va.toNat y.bits.toNat) (s.setMovers { s.movers with prefetches := rest })
    .next (x.1.complete y.part y.ref y.phase x.2)

end Sys2Proof.Machine
end

