-- ==== Sys2Proof/Machine/Creamer.lean ====
section
/-! DEFINITION. The Creamer (R288 to R296, R458): the copy pool, promotions page by page, their publication, demotions, copies that
leave, and lower tiers that are late (R309). -/

namespace Sys2Proof.Machine

/-! ### The copy pool (R458) -/

/-- The free pool pages of a partition, lowest first: numbers of 64 KiB pages of its own DRAM. Bits in an uncorrectable sector name none
(R404; log 18). -/
def State.poolPages (s : State) (p : Nat) : List Nat :=
  let base := (s.partCsr p 280).toNat
  let n := (s.partCsr p 281).toNat
  (s.cellsAt base ((n + 7) / 8)).flatMap fun x => if s.badSector (base + x.1) 1 then [] else (List.range 8).filterMap fun i =>
    let k := 8 * x.1 + i
    if x.2.toNat.testBit i && decide (k < n) && s.ownsDram p (65536 * k) then some k else none

/-- Clears or sets bits of the pool bitmap, in the shadow copy where a region is open (R127). -/
def State.markPool (s : State) (p : Nat) (offered : Bool) (ks : List Nat) : State :=
  ks.foldl (fun s k => s.deviceBits p (s.partCsr p 280).toNat k 1 (if offered then 1 else 0)) s

/-- Takes the n lowest free pool pages, if there are as many. -/
def State.takePool (s : State) (p n : Nat) : Option (List Nat × State) :=
  let ks := (s.poolPages p).take n
  if ks.length < n then none
  else some (ks, (s.took p (s.partCsr p 280).toNat (((s.partCsr p 281).toNat + 7) / 8)).markPool p false ks)

/-! ### Residency records (R288) -/

/-- First page and pages of the object whose record lies at `a`. -/
def State.objectPages (s : State) (a : Nat) : Nat × Nat := (s.numAt a 8 / 524288, s.numAt (a + 8) 8 / 524288)
def State.objectHome (s : State) (a : Nat) : Nat := field (s.numAt (a + 16) 8) 4 2
def State.objectType (s : State) (a : Nat) : Nat := field (s.numAt (a + 16) 8) 0 4
/-- The claim mask of tier t, at its byte address. -/
def claimAt (a t : Nat) : Nat := a + 32 + 8 * t

def inPages (r : Nat × Nat) (vp : Nat) : Bool := decide (r.1 ≤ vp) && decide (vp < r.1 + r.2)

/-- A promotion of the partition to tier t that has begun covers a page for which `which` holds (R291). One that is only queued is not pending
yet: step 1 of R292 sets the pending bit (DESIGN CHOICE, log 18). -/
def State.promoting (s : State) (p t : Nat) (which : Nat × Nat → Bool) : Bool :=
  match s.movers.run with
  | some r => r.req.part == p && r.req.tier == t && which (r.req.first, r.req.pages)
  | none => false

/-- STATE of an object (R288). -/
def State.objectState (s : State) (p a : Nat) : Nat :=
  let pages := s.objectPages a
  let of_ (t : Nat) : List Nat := (s.movers.copies.filter fun c => c.part == p && c.tier == t && inPages pages c.page).map (·.page)
  let t0 := of_ 0
  let t1 := of_ 1
  let only1 := (t1.filter fun v => !t0.contains v).length
  let pend (t : Nat) : Bool := s.promoting p t fun r => inPages pages r.1
  let kinds := [t0.length, only1, pages.2 - t0.length - only1].filter (· != 0)
  (if t0.isEmpty then 0 else 1) ||| (if t1.isEmpty then 0 else 2) ||| 2 ^ s.objectHome a ||| (if pend 0 then 16 else 0) |||
    (if pend 1 then 32 else 0) ||| (if 2 ≤ kinds.length then 256 else 0)

/-- Stored bytes of a home page: the sizes of its coded units, of one that cannot be read as if they were raw (R307; log 18). -/
def State.homeSize (s : State) (p ct vp : Nat) : Nat :=
  if !codable (Ty.ofCode ct) then 65664
  else match s.bytesBelow p ct 1 vp 0 65536 with
    | some bs => ((groupsOf 4096 bs).map fun u => (encodeUnit ct (natOfBytes u)).1).foldl (· + ·) 0
    | none => 65664

/-- Stored bytes of the copy of an object at tier 1 or 2: the sizes of the coded units of the copies at tier 1, or of the home (R288, R307). -/
def State.storedSize (s : State) (p a t : Nat) : Nat :=
  let pages := s.objectPages a
  if s.objectHome a = t then ((List.range pages.2).map fun i => s.homeSize p (s.objectType a) (pages.1 + i)).foldl (· + ·) 0
  else ((s.movers.copies.filter fun c => c.part == p && c.tier == t && inPages pages c.page).flatMap fun c => c.units.map (·.2)).foldl (· + ·) 0

/-- Brings one field of a residency record up to date, in the shadow copy where a region is open (R127, R288). -/
def State.maintain (s : State) (p a x : Nat) : State :=
  if s.numAt a 8 = x && (s.shadowAt a).isNone then s else s.deviceBits p a 0 64 x

/-- Brings STATE, SSIZE1 and SSIZE2 of a record up to date (R288, R308). A record in an uncorrectable sector is left alone (log 18). -/
def State.refreshRecord (s : State) (p a : Nat) : State :=
  if s.badRecord a then s
  else
    let s := s.took p a 128
    ((s.maintain p (a + 24) (s.objectState p a)).maintain p (a + 56) (s.storedSize p a 1)).maintain p (a + 64) (s.storedSize p a 2)

/-- Sets or clears the claim of queue q in the record at `a`, by a write of its one bit (R127, R290). -/
def State.markClaim (s : State) (p a t q : Nat) (held : Bool) : State := s.deviceBits p (claimAt a t) q 1 (if held then 1 else 0)

/-- The pool pages in which units lie. -/
def unitPages (us : List (Nat × Nat)) : List Nat := (us.map fun u => u.1 / 65536).dedup

/-- Copies of an object at tier t leave when its claim mask is 0 and no promotion of the page is pending, and pool pages in
which nothing remains return to the pool (R291, R458). -/
def State.leaveTier (s : State) (p a t : Nat) : State :=
  if s.badRecord a || decide (s.objectHome a ≤ t) || s.numAt (claimAt a t) 8 != 0 then s
  else
    let pages := s.objectPages a
    let goes (c : PageCopy) : Bool :=
      c.part == p && c.tier == t && inPages pages c.page && !s.promoting p t fun r => inPages r c.page
    let gone := s.movers.copies.filter goes
    if gone.isEmpty then s
    else
      let kept := s.movers.copies.filter fun c => !goes c
      let used := kept.flatMap fun c => unitPages c.units
      let s := s.setMovers { s.movers with copies := kept }
      (s.markPool p true ((gone.flatMap fun c => unitPages c.units).dedup.filter fun k => !used.contains k)).refreshRecord p a

/-- Every copy that may leave does, and every record is brought up to date (R288, R290, R291). -/
def State.sweepCopies (s : State) : State :=
  (List.range 16).foldl (fun s p =>
    (s.objects p).foldl (fun s a => ((s.leaveTier p a 0).leaveTier p a 1).refreshRecord p a) s) s

/-! ### Requests (R336, R364) -/

/-- The next request: partitions in turn, of each the one queued first (R336, R364). While a promotion is in progress a demotion runs in its
turn (R295), and a promotion waits (R296; log 18). -/
def State.nextRequest (s : State) : Option CrmReq :=
  (((List.range 16).map fun i => (s.movers.last + 1 + i) % 16).findSome? fun p => s.movers.queue.find? fun r => r.part == p).filter fun r =>
    !r.promote || s.movers.run.isNone

def State.takeRequest (s : State) (r : CrmReq) : State :=
  s.setMovers { s.movers with queue := s.movers.queue.erase r, last := r.part }

/-- The next request is taken in turn. -/
def State.pushCreamer (s : State) : State :=
  match s.nextRequest with
  | some r => s.pushOnce (if r.promote then .promotion else .demotion)
  | none => s

/-- The record of the object that a request names, unless it cannot be read (R404). -/
def State.requestRecord (s : State) (r : CrmReq) : Option Nat := ((s.objects r.part)[r.obj]?).filter fun a => !s.badRecord a

/-- The task that made a request, while its launch runs: a later launch of the queue is another (R294). -/
def State.requester (s : State) (r : CrmReq) : Option Task :=
  match s.task r.task with
  | some x => (match s.launch x.launch with | some l => if l.order = r.order then some x else none | none => none)
  | none => none

/-- The completion arrival of a request; its task has one fewer outstanding (R134, R293). -/
def State.requestDone (s : State) (r : CrmReq) (status : Nat) : State :=
  let s := match s.requester r with
    | some x => s.setTask r.task { x with crm := x.crm - 1 }
    | none => s
  s.complete r.part r.ref r.phase status

/-- A record about a request (R429). -/
def State.requestRecordTo (s : State) (r : CrmReq) (kind a b c : Nat) : State :=
  s.record false r.part (kindRecord kind r.part r.queue r.seq a b c)

/-- A promotion that fails publishes nothing and returns its room (R293, R294). -/
def State.failPromotion (s : State) (r : CrmReq) (room : List Nat) (status bad : Nat) : State :=
  let s := (s.setMovers { s.movers with run := none }).markPool r.part true room
  let s := match s.requestRecord r with
    | some a => ((s.leaveTier r.part a r.tier).refreshRecord r.part a)
    | none => s
  let s := s.requestDone r status
  let s := s.requestRecordTo r 5 r.obj (bad * 524288) status
  let s := match s.requester r with
    | some x => s.setTask r.task { x with
        reports := x.reports ++ [(wOf (1 + 256 * status), wOf (bad * 524288), wOf r.obj)] }
    | none => s
  s.pushCreamer

/-- Begins a promotion: its pending bit and the room for its whole range, counted raw (R292, R458). Where there is no room no page has failed: the
report names the first of the range (DESIGN CHOICE, R294, log 18). -/
def State.beginPromotion (s : State) (r : CrmReq) : State :=
  let s := s.takeRequest r
  match s.requestRecord r with
  | none => s.failPromotion r [] 1 r.first
  | some a =>
    let need := if r.tier = 0 then r.pages else (16 * r.pages + 14) / 15
    match s.takePool r.part need with
    | none => s.failPromotion r [] 2 r.first
    | some (room, s) =>
      (((s.setMovers { s.movers with run := some ⟨r, [], room⟩ }).refreshRecord r.part a).pushOnce .promotion).pushCreamer

/-- Places for coded units of these sizes, back to back in pool pages, after the place `at_` (index of the page in the room,
offset in it) (R458). -/
def placeUnits (room : List Nat) : Nat × Nat → List Nat → List (Nat × Nat)
  | _, [] => []
  | (i, o), n :: ns =>
    let (i, o) := if o + n ≤ 65536 then (i, o) else (i + 1, 0)
    (room.getD i 0 * 65536 + o, n) :: placeUnits room (i, o + n) ns

/-- Where the next unit of a promotion to tier 1 goes. -/
def Promotion.cursor (r : Promotion) : Nat × Nat :=
  match ((r.shadow.flatMap (·.units)).getLast?) with
  | some (a, n) => (r.room.idxOf (a / 65536), a % 65536 + n)
  | none => (0, 0)

/-- The page that a promotion reads next: the first of its range that neither its shadow nor a copy holds (R292). -/
def State.nextPage (s : State) (r : Promotion) : Option Nat :=
  let q := r.req
  let has (vp : Nat) : Bool :=
    (r.shadow.any fun c => c.page == vp) || s.movers.copies.any fun c => c.part == q.part && c.tier == q.tier && c.page == vp
  ((List.range q.pages).map (· + q.first)).find? fun vp => !has vp

/-- What the Creamer reads of a page below tier t is cleared where clearing was pending, and scrubbed: the copies down to the one that serves
(R379, R402, R404). -/
def State.tookBelow (s : State) (p ct t vp : Nat) : State :=
  let cs := (s.copiesOf p vp).filter fun c => decide (t < c.tier)
  let s' := cs.foldl (fun s c => c.units.foldl (fun s u => s.took p u.1 u.2) s) s
  if cs.any fun c => (s.copyBytes ct c 0 65536).isSome then s'
  else match s.resolveAs .control p .none [(vp * 524288, 524288)] with
    | .ok [gs] => gs.foldl (fun s g => if isRemote s g then s else s.took p (g.1 / 8) (g.2 / 8)) s'
    | _ => s'

/-- Reads the next page of a promotion into its shadow, or has it publish after the last (R292, R306, R307, R404). -/
def State.promotePage (s : State) (r : Promotion) : State :=
  let q := r.req
  match s.nextPage r with
  | none => s.pushOnce .promotionPublish
  | some vp =>
    let ct := match s.requestRecord q with | some a => s.objectType a | none => 15
    match s.bytesBelow q.part ct q.tier vp 0 65536 with
    | none => s.failPromotion q r.room 1 vp
    | some bs =>
      let s := s.tookBelow q.part ct q.tier vp
      let (us, s) : List (Nat × Nat) × State :=
        if q.tier = 0 then
          let at_ := r.room.getD r.shadow.length 0 * 65536
          ([(at_, 65536)], s.writeBytes at_ bs)
        else
          let codes := (groupsOf 4096 bs).map fun u => encodeUnit ct (natOfBytes u)
          let us := placeUnits r.room r.cursor (codes.map (·.1))
          (us, (us.zip codes).foldl (fun (s : State) (x : (Nat × Nat) × (Nat × Nat)) =>
            s.writeBytes x.1.1 (bytesOfNat x.2.1 x.2.2)) s)
      (s.setMovers { s.movers with run := some { r with shadow := r.shadow ++ [⟨q.part, vp, q.tier, us⟩] } }).pushOnce .promotion

/-- PROMOTION: the next promotion begins, or the one in progress reads its next page (R292). -/
def execPromotion (s : State) : Out1 :=
  match s.movers.run with
  | some r => .next (s.promotePage r)
  | none =>
    match s.nextRequest with
    | some r => .next (if r.promote then s.beginPromotion r else s)
    | none => .next s

/-- PROMOTION_PUBLISH: when no page is left to read, all publish at one point, the claim is set, the pages of the room that no unit took
return, and the completion is reported (R292, R458). -/
def execPromotionPublish (s : State) : Out1 :=
  match s.movers.run with
  | none => .next s
  | some r =>
    if (s.nextPage r).isSome then .next s else
    let q := r.req
    let used := r.shadow.flatMap fun c => unitPages c.units
    let s := s.setMovers { s.movers with run := none, copies := s.movers.copies ++ r.shadow }
    let s := s.markPool q.part true (r.room.filter fun k => !used.contains k)
    let s := match s.requestRecord q with
      | some a => (s.markClaim q.part a q.tier q.queue true).refreshRecord q.part a
      | none => s
    .next (((s.requestDone q 0).requestRecordTo q 4 q.obj 0 0).pushCreamer)

/-- DEMOTION: the next demotion clears its queue's claim and reports; copies then leave, those included whose claims firmware
has cleared (R290, R291, R295). -/
def execDemotion (s : State) : Out1 :=
  match s.nextRequest.filter fun r => !r.promote with
  | none => .next s.sweepCopies
  | some r =>
    let s := s.takeRequest r
    let s := match s.requestRecord r with
      | some a => s.markClaim r.part a r.tier r.queue false
      | none => s
    .next ((s.requestDone r 0).sweepCopies.pushCreamer)

/-- LOWER_TIER_DEADLINE: a request to a lower tier has missed its deadline, or the tier has answered with an error (R309). A failed
read ends its instruction after every check of R172, when it reads from that tier; a part ends the MMA or MMAI that awaits it. -/
def execLowerTierDeadline (r : LateRequest) (s : State) : Out1 :=
  match r with
  | .instrRead k e => .next (s.failAccess k e none Cls.lowerTier.code)
  | .parts k => .next (if (s.awaitedParts k).any fun h => decide (256 ≤ h) then s.takeFault k .m (mkTrap .lowerTier) else s)
  | .creamer =>
    match s.movers.run with
    | some x => .next (match s.nextPage x with | some vp => s.failPromotion x.req x.room 3 vp | none => s)
    | none => .next s
  | .slab t j => .next (s.moveSlab t j.val false)
  | .handOver t => execHandOverCopyDone t .late s

end Sys2Proof.Machine
end

