-- ==== Sys2Proof/Machine/Isolation.lean ====
section
/-! DEFINITION. Partitions: activation, reset and disabling (R361, R362, R378, R426), walkers (R367 to R371), clearing (R379), hot rows
(R382), watchdog resets (R383), scrub (R402, R405) and records that waited for their queue (R390). -/

namespace Sys2Proof.Machine

/-! ### Partition records (R361, R362) -/

/-- A partition record's fields from its 64 bytes; none where a reserved bit is set or a field breaks its alignment. -/
def partOfRecord (x : Nat) : Option Part :=
  let w (i : Nat) : Nat := field x (64 * i) 64
  let misc := w 2
  if field (w 0) 48 16 != 0 || field misc 22 42 != 0 || w 6 != 0 || w 7 != 0 || w 3 % 65536 != 0 || w 4 % 1073741824 != 0 ||
      w 5 % 1073741824 != 0 || decide (17592186044416 < w 4 + w 5) then none
  else some { Part.zero with
    slc := w 0, core := w 1, flash := field misc 0 16, vfn := field misc 16 4, lend := misc.testBit 20
    enabled := misc.testBit 21, ptr := w 3, fnb := w 4, fnl := w 5 }

/-- Two partitions would share a granule, a flash engine or a byte of flash namespace. -/
def Part.shares (x y : Part) : Bool :=
  x.slc &&& y.slc != 0 || x.core &&& y.core != 0 || x.flash &&& y.flash != 0 ||
    (decide (max x.fnb y.fnb < min (x.fnb + x.fnl) (y.fnb + y.fnl)))

/-- Another partition takes what this one has given up (R264, R378). -/
def Part.takes (y x : Part) : Bool :=
  x.left.any fun g => y.shares { Part.zero with slc := g.1, core := g.2.1, flash := g.2.2.1, fnb := g.2.2.2.1, fnl := g.2.2.2.2 }

/-- x holds everything that y holds. -/
def Part.covers (x y : Part) : Bool :=
  x.slc &&& y.slc == y.slc && x.core &&& y.core == y.core && x.flash &&& y.flash == y.flash &&
    (y.fnl == 0 || (decide (x.fnb ≤ y.fnb) && decide (y.fnb + y.fnl ≤ x.fnb + x.fnl)))

/-! ### Reset (R378 to R381) -/

/-- Rows of each bank (R11). -/
def State.bankRows (s : State) : Nat := s.dramBytes / (192 * 4 * 32 * 2048)

/-- Intervals of the row keys of one slice. -/
def State.sliceRows (s : State) (slice : Nat) : List (Nat × Nat) :=
  (List.range 128).map fun i => let k := (slice * 128 + i) * 65536; (k, k + s.bankRows)

/-- The slices of a mask of granules, in ascending order. -/
def slicesOf (slc : Nat) : List Nat := (List.range 192).filter fun i => slc.testBit (i / 4)

/-- Sets the clear-pending bits of intervals of rows; none is entered twice (R379). -/
def addRows (old new : List (Nat × Nat)) : List (Nat × Nat) :=
  (old.filter fun x => !(new.any fun y => decide (y.1 ≤ x.1) && decide (x.2 ≤ y.2))) ++ new

/-- Requests of other modules that wait on barriers of a region are answered that the target resets (R378, R455). The spec does not say what
becomes of a BARR or BWAIT of the partition's firmware that waits there: its barrier has no count any more, and they end as at such a barrier
(R122; DESIGN CHOICE, log 12). -/
def State.dropRegion (s : State) (lo n : Nat) : State :=
  let inside (a : Nat) : Bool := decide (lo ≤ a) && decide (a < lo + n)
  let m := s.memory
  let waits := m.waits.filter fun w => inside w.1
  let arrivals := m.arrivals.filter fun a => inside a.rcd
  let s := s.setMemory { m with
    bytes := m.bytes.filter fun x => !inside x.1
    check := m.check.filter fun x => !inside (16 * x.1)
    waits := m.waits.filter fun w => !inside w.1
    arrivals := m.arrivals.filter fun a => !inside a.rcd }
  let s := waits.foldl (fun s w => s.answerTo w.2.2 62 [4]) s
  let s := arrivals.foldl (fun s a => match a.who with | .core k => s.faultBarr k a.phase a.ref | who => s.answerTo who 62 [4]) s
  s.cores.foldl (fun s x => match x.2.fBar with
    | .waiting b _ _ => if inside b then s.inform (.core x.1) 2684354560 else s
    | _ => s) s

/-- What the firmware of a partition has under way in the partition's memory ends with a reset: its open group aborts, its ring breaks, and its
queued commands go (R170, R333, R378). -/
def State.dropFirmwareWork (s : State) (id : LaunchId) : State :=
  let s := s.breakRing (id * 256)
  let s := match s.launch id with
    | some l => s.setLaunch id { l with cmds := [], wins := [], spanning := [] }
    | none => s
  match s.task (id * 256) with
  | some x => s.setTask (id * 256) { x with group := x.group.map fun (g : Group) => { g with aborted := true } }
  | none => s

/-- The firmware task of control core k is dismissed: what it has under way ends as at an abort (R123, R128, R333; DEDUCED, log 11). -/
def State.dismissFirmware (s : State) (k : Nat) : State :=
  let id := 1024 + k
  let s := (s.memory.shadows.filter fun r => r.launch == id).foldl State.discardShadow s
  let s := ((s.breakRing (id * 256)).freeUnit (768 + k)).dropAsks (savedAsker (id * 256))
  let s := { s with sched := { s.sched with tasks := assocDrop s.sched.tasks (id * 256), launches := assocDrop s.sched.launches id } }
  (s.dropAsks (stepAsker id)).dropText id

/-- Units for which `which` holds are cleared but for the slabs that `keep` names: what is cleared carries its own code again, and its SRAM
words are good (R15, R378, R383, R405). -/
def State.cleanUnits (s : State) (which : CoreId → Bool) (keep : CoreId → Nat → Bool) : State :=
  let kept (n : Nat) : Bool :=
    match windowOf (16 * n) with
    | some (k, o) => !which k ||
      (decide (4194304 ≤ o) && decide (o < 16777216) && keep k ((o - 4194304) / 12288)) ||
      (decide (17825792 ≤ o) && decide (o < 18874368) && keep k ((o - 17825792) / 1024))
    | none => true
  let s := s.setMemory { s.memory with check := s.memory.check.filter fun x => kept x.1 }
  let word (x : CoreId × Nat × Bool) : Bool := !which x.1 || (decide (x.2.1 < 8388608) && kept ((windowBase x.1 + 4 * x.2.1) / 16))
  s.setEdge { s.edge with sramErr := s.edge.sramErr.filter word }

/-- RESET of a partition in the order of R378. -/
def State.resetPart (s : State) (p : Nat) : State :=
  let x := s.part p
  let mine := (s.sched.queues.map (·.1)).filter fun i => i / 64 == p
  let s := mine.foldl (fun s i =>
    let q := s.queue i
    (s.setQueue i { q with cfg := q.cfg &&& ~~~1#64, next := q.next &&& ~~~1#64 }).resetQueue p (i % 64)) s
  let s := ((s.sched.launches.map (·.1)).filter fun i => i < 1024 && i / 64 == p).foldl (fun s i => s.abort i 3) s
  let s := (s.sched.launches.filter fun y => 1024 ≤ y.1 && y.1 != 1044 && y.2.part == p).foldl (fun s y => s.dropFirmwareWork y.1) s
  let s := (s.memory.shadows.filter fun r => r.part == p).foldl State.discardShadow s
  -- Creamer work of the partition: a begun promotion ends with status 4, its arrival lost with the barrier region (R381)
  let s := match s.movers.run with
    | some r => if r.req.part = p then s.requestRecordTo r.req 5 r.req.obj ((s.nextPage r).getD r.req.first * 524288) 4 else s
    | none => s
  let s := s.setMovers { s.movers with
    queue := s.movers.queue.filter fun r => r.part != p
    run := s.movers.run.filter fun r => r.req.part != p
    copies := s.movers.copies.filter fun c => c.part != p
    prefetches := s.movers.prefetches.filter fun r => r.part != p }
  let s := (s.dropRegion (barrierBase + p * 268435456) 268435456).dropRegion (starterBase + p * 268435456) 268435456
  let s := s.setMovers { s.movers with freed := s.movers.freed.filter fun f => f.1 / 16 != p }
  let s := ((s.sched.launches.map (·.1)).filter fun i => i < 1024 && i / 64 == p).foldl State.endLaunch s
  let slices : List Nat := slicesOf x.slc
  let lost (line : Nat) : Bool := decide (line * 128 < s.dramBytes) && slices.contains (sliceOf (line * 128))
  let m := s.memory
  let s := s.setMemory { m with
    lines := m.lines.filter fun k => !lost k
    dirty := m.dirty.filter fun k => !lost (k / 8)
    clrRows := addRows m.clrRows (slices.flatMap s.sliceRows)
    clrBlocks := if x.fnl = 0 then m.clrBlocks else addRows m.clrBlocks [(x.fnb / 1048576, (x.fnb + x.fnl) / 1048576)]
    tlb := m.tlb.filter fun t => t.1 != p }
  let wiped (c : Nat × Core) : Nat × Core :=
    if x.hasUnit c.1 then (c.1, { Core.zero with defective := c.2.defective }) else c
  let s := ({ s with cores := s.cores.map wiped }).cleanUnits x.hasUnit fun _ _ => false
  let s := s.setEdge { s.edge with
    churn := s.edge.churn.filter fun y => y.1 != p
    partials := s.edge.partials.filter fun y => y.part != p
    groups := s.edge.groups.map fun g =>
      (g.1, g.2.1, { g.2.2 with aborted := g.2.2.aborted || slices.any g.2.2.usesSlice }) }
  let s := (s.setPart p { x with meas := [], log := [], used := x.enabled }).pushCreamer
  let s := (((slices.map (· / 16)).dedup).foldl (fun s k => s.pushOnce (.clearingEngineRow (Fin.ofNat 12 k))) s)
  (s.rootRecord 9 p 0 0).msix p 64

/-- A partition that is not enabled gives up what another takes: it is reset, unless it has been since it was last enabled (R362). -/
def State.giveUp (s : State) (p : Nat) : State :=
  let s := if (s.part p).used then s.resetPart p else s
  s.setPart p { s.part p with slc := 0, core := 0, flash := 0, fnl := 0, used := false }

/-- What a write of PACT or PSTL reads holds an uncorrectable sector: its first byte (R404, R426, R440). -/
def State.tornRoot (s : State) (n : Nat) (v : Word) : Option Nat :=
  let at_ (a len : Nat) := if s.badSector a len then some a else none
  if n == 528 && wField v 52 12 == 0 && wField v 4 2 == 0 then at_ (wField v 6 46 * 64) 64
  else if n == 596 && v == 1 then at_ (s.rootCsr 595).toNat 2304
  else none

/-- PACT action 0: activates a record, or refuses (R361, R362, R426). A partition that would lose a granule is reset first, and
the queue counts of a partition whose resources pass to another one start again (R264, R378). -/
def State.activate (s : State) (p addr : Nat) : Option State :=
  match partOfRecord (s.numAt addr 64) with
  | none => none
  | some y =>
    let others := (s.parts.filter fun o => o.1 != p)
    let clash := y.enabled && others.any fun o => o.2.enabled && (y.shares o.2 || y.vfn == o.2.vfn)
    let ptrIn := decide (y.ptr < s.dramBytes) && y.slc.testBit (sliceOf y.ptr / 4)
    if clash || !ptrIn then none
    else
      let x := s.part p
      let wiped := x.used && !y.covers x
      let s := s.tookOwn addr 64
      let s := if wiped then s.resetPart p else s
      let passed := if y.enabled then (others.filter fun o => !o.2.enabled && y.shares o.2).map (·.1) else []
      let counted := if y.enabled then passed ++ (others.filter fun o => y.takes o.2).map (·.1) else []
      let s := passed.foldl State.giveUp s
      let s := { s with
        parts := s.parts.map fun (o : Nat × Part) => if counted.contains o.1 then (o.1, { o.2 with left := [] }) else o
        sched := { s.sched with
          queues := s.sched.queues.map fun (q : Nat × Queue) => if counted.contains (q.1 / 64) then (q.1, { q.2 with acc := 0, fin := 0, ref := 0 }) else q } }
      let z := s.part p
      let left := if y.covers x then z.left else z.left ++ [(x.slc, x.core, x.flash, x.fnb, x.fnl)]
      some (s.setPart p { y with meas := z.meas, log := z.log, used := y.enabled || (z.used && !wiped), left := left })

/-- What a firmware action does when it is refused: the CSR-value fault of its register in the core that writes it. -/
def State.actOr (s : State) (k : CoreId) (csr : Nat) (v : Word) (r : Option State) : Out1 :=
  match r with
  | some t => .next t
  | none => .next (s.takeFault k s.eng (mkTrap .csrValue (wOf csr) v))

/-- A write of PACT or PSTL by root firmware as an event of its own: one that reads an uncorrectable sector takes the sector-code fault (R404). -/
def State.byRoot (s : State) (n : Nat) (v : Word) (torn : Option Nat) (r : Option State) : Out1 :=
  match torn with
  | some a => .next (s.takeFault rootId s.eng (mkTrap .sectorCode (wOf (8 * a))))
  | none => s.actOr rootId n v r

/-- PACT_ACTIVATE (R361, R362). -/
def execPactActivate (p : PartId) (addr : Word) (s : State) : Out1 :=
  let a := wField addr 6 46 * 64
  s.byRoot 528 (addr ||| wOf p.val) (if s.badSector a 64 then some a else none) (s.activate p.val a)
/-- PACT_RESET (R378). -/
def execPactReset (p : PartId) (s : State) : Out1 := .next (s.resetPart p.val)

/-- PACT action 2: resets the partition, then disables it (R426). What it gives up later has been reset (R362). -/
def State.disable (s : State) (p : Nat) : State :=
  let s := s.resetPart p
  s.setPart p { s.part p with enabled := false, used := false }

/-- PACT_DISABLE (R426). -/
def execPactDisable (p : PartId) (s : State) : Out1 := .next (s.disable p.val)

/-- The enabled partition that a virtual function serves (R436). -/
def State.partOfVf (s : State) (vf : Nat) : Option Nat :=
  (s.parts.find? fun x => x.2.enabled && x.2.vfn == vf).map (·.1)

/-- FUNCTION_LEVEL_RESET (R378, R436). -/
def execFunctionLevelReset (vf : Fin 16) (s : State) : Out1 :=
  match s.partOfVf vf.val with
  | some p => .next (s.resetPart p)
  | none => .next s

/-! ### Walkers, clearing, hot rows, scrub -/

/-- PAGE_WALK: a walker's result is cached; a walk that fails caches nothing (R367 to R371). -/
def execPageWalk (p : PartId) (va : Word) (s : State) : Out1 := .next (s.cachePage p.val (wField va 19 39))

/-- CLEARING_ENGINE_ROW: the clearing engine of a stack clears its lowest pending row, and reports when none remains, whether it or a
request has cleared the last (R379). -/
def execClearingEngineRow (stack : Fin 12) (s : State) : Out1 :=
  let lo := rowKey (16 * stack.val) 0 0 0
  let hi := rowKey (16 * stack.val + 16) 0 0 0
  let mine (s : State) : List Nat := (s.memory.clrRows.filter fun x => decide (x.1 < hi) && decide (lo < x.2)).map (·.1)
  let owner (which : Nat → Bool) : PartId := PartId.ofNat (match s.parts.find? fun x => x.2.enabled && which x.2.slc with | some x => x.1 | none => 0)
  match mine s with
  | [] => .next (s.push (.clrd stack (owner fun slc => (List.range 4).any fun i => slc.testBit (4 * stack.val + i))))
  | k :: ks =>
    let row := ks.foldl min k
    let s := s.clearRow row
    .next (if (mine s).isEmpty then s.push (.clrd stack (owner fun slc => slc.testBit (rowSlice row / 4)))
      else s.pushOnce (.clearingEngineRow stack))

/-- HOT_ROW_REFRESH: a row has reached 2,048 activations in the window; its neighbours are refreshed, and the bank is throttled
for the rest of the window. No value changes (R382). -/
def execHotRowRefresh (channel bank row : Nat) (s : State) : Out1 :=
  let key := rowKey (channel / 4) (channel % 4) bank row
  .next (s.setEdge { s.edge with acts := s.edge.acts.put 0 key 2048, throttled := insertNat s.edge.throttled (key / 65536) })

/-- ACTIVATION_WINDOW_END: the counts of a channel start again and its banks are no longer throttled (R382). -/
def execActivationWindowEnd (channel : Nat) (s : State) : Out1 :=
  .next (s.setEdge { s.edge with
    acts := s.edge.acts.filter fun x => x.1 / 65536 / 32 != channel
    throttled := s.edge.throttled.filter fun b => b / 32 != channel })

/-- Open command groups abort, of tasks and of the links (R170, R383, R449). -/
def State.abortGroups (s : State) (which : Group → Bool) : State :=
  let f (g : Group) : Group := { g with aborted := g.aborted || which g }
  { s with
    sched := { s.sched with tasks := s.sched.tasks.map fun (t : Nat × Task) => (t.1, { t.2 with group := t.2.group.map f }) }
    edge := { s.edge with groups := s.edge.groups.map fun g => (g.1, g.2.1, f g.2.2) } }

/-- WATCHDOG RESET of a unit (R383): its task stops with a unit-reset fault, its open group and those that its sequencer runs abort, and
its state is cleared, except slabs it holds for tasks bound elsewhere. A replay starts from what it held (R399; log 17). -/
def State.resetUnit (s : State) (k : CoreId) : State :=
  if s.edge.inReset.contains k then s
  else
    let s := match (s.core k).owner with
      | some _ => ((s.unarrive k).takeFault k (s.core k).firstRunning (mkTrap .unitReset))
      | none => s
    let s := match s.taskOf k with
      | some (t, x, _) =>
        let c := s.core k
        s.setTask t { x with group := x.group.map fun (g : Group) => { g with aborted := true }, kept := x.kept.or (some c) }
      | none => s
    let s := s.abortGroups fun g => codedUnit k && g.usesSlice (k - 256)
    let c := s.core k
    let keep := (List.range 1024).filter fun j => s.cores.any fun y => y.1 != k && y.2.owner.isSome && y.2.holder.get 0 j == k + 1
    let s := s.setCore k { Core.zero with
      owner := c.owner, stopped := c.stopped, part := c.part, mode := c.mode, defective := c.defective, holder := c.holder
      wst := c.wst.filter fun (x : Nat × Byte) => keep.contains (x.1 / 12288)
      scl := c.scl.filter fun (x : Nat × Byte) => keep.contains (x.1 / 1024) }
    let s := s.cleanUnits (· == k) fun _ j => keep.contains j
    s.setEdge { s.edge with inReset := s.edge.inReset ++ [k] }

/-- STACK_ENGINE_WATCHDOG: the base die resets a hung engine and tells the hub when it begins and when it is done (R383, R447). -/
def execStackEngineWatchdog (e : Fin 192) (s : State) : Out1 :=
  let i := Fin.ofNat 16 e.val
  let k := Fin.ofNat 12 (e.val / 16)
  .next (((s.resetUnit (256 + e.val)).push (.wdog k i)).push (.rstd k i))

/-- SRAM_SCRUB: single bad bits of a unit are corrected; an uncorrectable word of task-local state stops the task. One of the constant
cache stays until a read has its line refilled (R405). -/
def execSramScrub (k : CoreId) (s : State) : Out1 :=
  if s.tornWord k && (s.core k).owner.isSome then .next (s.tornFault k)
  else .next (s.setEdge { s.edge with sramErr := s.edge.sramErr.filter fun x => x.1 != k || !x.2.2 })

/-- DRAM_SCRUB: the clearing engine reads and rewrites a row and corrects what the code corrects (R402, R405). -/
def execDramScrub (row : Nat) (s : State) : Out1 :=
  let p := match s.parts.find? fun x => x.2.enabled && x.2.slc.testBit (rowSlice row / 4) with | some x => x.1 | none => 0
  .next ((rowLines row).foldl (fun s a => if inIntervals s.memory.clrRows row || !decide (a < s.dramBytes) then s else s.scrub p a 128) s)

/-- Places records that waited, in order, while their queue has room (R390). -/
def State.flushRecords (s : State) (root : Bool) (p : Nat) : Nat → State
  | 0 => s
  | n + 1 =>
    match s.edge.records.find? fun r => r.root == root && (root || r.part == p) with
    | none => s
    | some r =>
      match ({ s with edge := { s.edge with records := s.edge.records.erase r } } : State).tryRecord r with
      | some t => t.flushRecords root p n
      | none => s

/-- RECORD_WRITE: held records of a queue are written when it has room (R390, R430). -/
def execRecordWrite (root : Bool) (p : PartId) (s : State) : Out1 := .next (s.flushRecords root p.val s.edge.records.length)

end Sys2Proof.Machine
end

