-- ==== Sys2Proof/Machine/Firmware.lean ====
section
/-! DEFINITION. Actions of scheduler and root firmware: pending bindings, pre-emption and recovery (R397, R408, R424), forced demotion
(R425), queue configuration (R263), WAKE (R419) and the port slot tables (R440). Each refuses what its rule refuses. -/

namespace Sys2Proof.Machine

/-- An action of partition p's scheduler firmware through a control-mode CSR; nothing happens where no control core serves p. -/
def State.byScheduler (s : State) (p csr : Nat) (v : Word) (r : Option State) : Out1 :=
  match s.ctlOf p with
  | some k => s.actOr (768 + k) csr v r
  | none => .next s

/-- The running launch of a queue, if it has the role (R424). -/
def State.launchRole (s : State) (p q role : Nat) : Option Launch :=
  match s.launch (64 * p + q) with
  | some l => if role < l.n then some l else none
  | none => none

/-- PBIND (R297, R424): a pending binding entry; V = 0 cancels it. -/
def State.pbindAct (s : State) (p : Nat) (v : Word) : Option State :=
  let q := wField v 0 6
  let role := wField v 8 8
  let ent := wField v 32 32
  if wField v 6 2 != 0 || wField v 16 16 != 0 then none
  else match s.launchRole p q role with
    | some l => some (s.setLaunch (64 * p + q) { l with pbind := l.pbind.put 0 role (if ent.testBit 31 then 2 ^ 32 + ent else 0) })
    | none => none

/-- PREQ with PRE = 1 (R279, R424): a request while one is pending adds nothing. One that meets the final arrival is dropped with a record
(R280). -/
def State.preempt (s : State) (p q : Nat) : Option State :=
  match s.launch (64 * p + q) with
  | some l =>
    if l.preempt ≠ .none then some s
    else if l.ended.length = l.n then some (s.deviceRecord false p 7 q)
    else
      let s := s.setLaunch (64 * p + q) { l with preempt := .pending, asked := s.ccnt }
      some (if l.phase = .running then s else s.push (.preemptionStrike (64 * p + q)))
  | none => none

/-- The task of a role is saved. One that stands stopped on a fault has kept its unit (R390). -/
def State.roleSaved (s : State) (id : LaunchId) (role : Nat) : Bool :=
  match s.task (id * 256 + role) with | some x => x.saved.isSome | none => false

/-- The first saved role whose entry breaks R18 (R408). -/
def State.badResume (s : State) (id : LaunchId) (l : Launch) : Option Nat :=
  (l.table.zipIdx.find? fun x => s.roleSaved id x.2 &&
    (!s.entryFits l.part x.1.toNat none || (l.table.take x.2).any fun y => entCore y.toNat == entCore x.1.toNat)).map (·.2)

/-- The first saved role whose image holds an uncorrectable sector. -/
def State.tornImage (s : State) (id : LaunchId) (l : Launch) : Option Nat :=
  (List.range l.n).find? fun r => s.roleSaved id r && !s.mayResume (id * 256 + r)

/-- PREQ with RES = 1 (R408): every saved task is restored onto the unit that the binding names, once R18 holds of it. An image that cannot be
read ends the launch with status 2, as R410 has it for a replay (DESIGN CHOICE, log 17). -/
def State.resume (s : State) (p q : Nat) : Option State :=
  let id := 64 * p + q
  match s.launch id with
  | none => none
  | some l =>
    if l.preempt ≠ .saved then some s
    else match s.badResume id l with
      | some r => some (s.launchRecord l 2 r (l.table.getD r 0).toNat 0)
      | none =>
        if let some r := s.tornImage id l then some ((s.deviceRecord false p 2 r).abort id 2) else
        let s := s.setLaunch id { l with preempt := .none }
        let s := (l.table.zipIdx).foldl (fun (s : State) (x : Word × Nat) =>
          let k := entCore x.1.toNat
          if s.roleSaved id x.2 then
            let s := s.restoreTask (id * 256 + x.2) k
            s.setCore k { s.core k with part := p }
          else s) s
        some (match l.phase with
          | .comm => s.pushOnce (.communicationStep id)
          | .held => s.pushOnce .schedulerIssue
          | .running => s)

/-- The class of the fault on which a role's task stands stopped, on its unit or saved (R424). -/
def State.stoppedClass (s : State) (t : TaskId) : Option Nat :=
  match s.task t with
  | none => none
  | some x =>
    match x.saved with
    | some (_, c) => c
    | none => (s.core x.core).stopped

/-- What a replay drops of the task's queued work: its COPY commands and RED contributions of the superstep (R397). -/
def Launch.dropWork (l : Launch) (role : Nat) : Launch :=
  { l with
    cmds := l.cmds.filter fun c => c.role != role
    wins := l.wins.map fun w => { w with got := w.got.filter fun g => g.1 != role }
    arrived := l.arrived.filter (· != role) }

/-- A task for whose unit none is bound while its launch is saved is replayed into its saved image (log 17). -/
def scratchUnit : CoreId := 3000

/-- REPLAY of a task's superstep on core k (R397, R398). A task whose launch is pre-empted is saved when it stands at its start. -/
def State.replay (s : State) (id : LaunchId) (l : Launch) (role : Nat) (k : CoreId) : State :=
  let t := id * 256 + role
  let s := s.setLaunch id (l.dropWork role)
  match s.task t with
  | none => s
  | some x =>
    match x.saved with
    | none =>
      let s := s.restoreSuperstep t k
      let s := s.setCore k { s.core k with part := l.part }
      if l.preempt = .saved then s.saveTask t else s
    | some _ =>
      let s := ((s.restoreTask t scratchUnit).restoreSuperstep t scratchUnit).saveTask t
      { s with cores := assocDrop s.cores scratchUnit }

/-- A replay that the device refuses ends the launch with status 2, with a record (R397, R410). -/
def State.refuseReplay (s : State) (id : LaunchId) (l : Launch) (role : Nat) : State :=
  (s.deviceRecord false l.part 2 role).abort id 2

/-- The launch and class of a role whose task stands stopped on a fault (R424). -/
def State.recoverable (s : State) (p q role : Nat) : Option (Launch × Nat) :=
  match s.launchRole p q role, s.stoppedClass ((64 * p + q) * 256 + role) with
  | some l, some c => some (l, c)
  | _, _ => none

/-- RCVR with ACT 0: replay on the same unit (R390, R397). -/
def State.rcvrReplay (s : State) (p q role : Nat) : Option State :=
  let id := 64 * p + q
  match s.recoverable p q role, s.task (id * 256 + role) with
  | some (l, _), some x =>
    some (if s.mayReplay (id * 256 + role) then s.replay id l role x.core else s.refuseReplay id l role)
  | _, _ => none

/-- RCVR with ACT 1: rebind to another unit and replay there; an entry that fails R18 leaves the task stopped (R390, R424). -/
def State.rcvrRebind (s : State) (p q role ent : Nat) : Option State :=
  let id := 64 * p + q
  let t := id * 256 + role
  match s.recoverable p q role, s.task t with
  | some (l, _), some x =>
    let k := entCore ent
    let own := if x.saved.isSome then none else some x.core
    some (
      if !s.entryFits p ent own || l.table.zipIdx.any fun y => y.2 != role && entCore y.1.toNat == k then
        s.launchRecord l 2 role ent 0
      else if !s.mayReplay t then s.refuseReplay id l role
      else
        let l := { l with table := l.table.set role (wOf ent) }
        let s := s.bind id l role ent
        if x.saved.isSome || k = x.core then s.replay id l role k
        else
          let s := s.takeSlabs x.core
          let old := s.core x.core
          let s := (s.cleanUnit k).setCore k { old with defective := (s.core k).defective }
          let s := (s.carryErrors x.core k).freeUnit x.core
          s.replay id l role k)
  | _, _ => none

/-- RCVR with ACT 2: abort, with status 4 after a watchdog fault and 2 otherwise (R276, R390). -/
def State.rcvrAbort (s : State) (p q role : Nat) : Option State :=
  match s.recoverable p q role with
  | some (_, c) => some (s.abort (64 * p + q) (if c = 29 then 4 else 2))
  | none => none

/-- A write of RCVR (R424). -/
def State.rcvrAct (s : State) (p : Nat) (v : Word) : Option State :=
  let q := wField v 0 6
  let role := wField v 8 8
  if wField v 6 2 != 0 || wField v 18 14 != 0 then none
  else match wField v 16 2 with
    | 0 => s.rcvrReplay p q role
    | 1 => s.rcvrRebind p q role (wField v 32 32)
    | 2 => s.rcvrAbort p q role
    | _ => none

/-- FDEM with ACT 0: a forced demotion of a role to a unit of a higher-numbered tier becomes pending (R304, R425). -/
def State.demoteRole (s : State) (p q role ent : Nat) : Option State :=
  match s.launchRole p q role with
  | none => none
  | some l =>
    let now := field (l.table.getD role 0).toNat 16 2
    if !entOk ent || field ent 16 2 ≤ now then none
    else some (s.setLaunch (64 * p + q) { l with fdem := l.fdem.put 0 role (2 ^ 32 + ent) })

/-- FDEM with ACT 1: clears every claim of an object at a tier; a begun promotion there ends with status 4 (R296, R425). No page has failed then:
the reports name the first of its range (DESIGN CHOICE, R294, log 18). A record that cannot be read names no object (R404, log 18). -/
def State.demoteObject (s : State) (p tier obj : Nat) : Option State :=
  if wField (s.partCsr p 273) 0 17 ≤ obj || 2 ≤ tier then none
  else match (s.objects p)[obj]? with
    | none => none
    | some a =>
      if s.badRecord a || decide (s.objectHome a ≤ tier) then none
      else
        let s := s.deviceBits p (claimAt a tier) 0 64 0
        let s := match s.movers.run with
          | some r => if r.req.part = p && r.req.obj == obj && r.req.tier == tier then s.failPromotion r.req r.room 4 r.req.first else s
          | none => s
        some (s.leaveTier p a tier)

/-- A write of FDEM (R425). A field of the other action may hold any value, the reserved ones of TIER too (DEDUCED, log 11). -/
def State.fdemAct (s : State) (p : Nat) (v : Word) : Option State :=
  if wField v 6 2 != 0 || wField v 18 2 != 0 || wField v 22 10 != 0 then none
  else match wField v 16 2 with
    | 0 => s.demoteRole p (wField v 0 6) (wField v 8 8) (wField v 32 32)
    | 1 => s.demoteObject p (wField v 20 2) (wField v 32 32)
    | _ => none

/-- A write of QCFGq: EN at once, the word from the next period boundary (R263). -/
def State.qcfgAct (s : State) (p q : Nat) (v : Word) : Option State :=
  if v.getLsbD 3 || wField v 5 27 != 0 then none
  else
    let x := s.queue (64 * p + q)
    some (s.setQueue (64 * p + q) { x with
      cfg := if v.getLsbD 0 then x.cfg ||| 1#64 else x.cfg &&& ~~~1#64, next := v })

/-- A write of WAKE (R419, R423): bit 5 names the root core, else bits [4:0] a control core. -/
def State.wakeAct (s : State) (v : BitVec 6) : State :=
  if v.getLsbD 5 then s.wake rootId
  else if v.toNat < 20 then s.wake (768 + v.toNat) else s

/-- A write of 1 to PSTL loads the 36 port slot tables from PSTB, each byte with its reserved bits 0 (R440, R444). -/
def State.loadPorts (s : State) : State :=
  let s := s.tookOwn (s.rootCsr 595).toNat 2304
  let bs := (s.bytesAt (s.rootCsr 595).toNat 2304).map fun b => b &&& 143#8
  s.setEdge { s.edge with slotTab := s.edge.slotTab.splice 128#8 69632 bs }

/-- PBIND_WRITE (R424). -/
def execPbindWrite (p : PartId) (v : Word) (s : State) : Out1 := s.byScheduler p.val 288 v (s.pbindAct p.val v)
/-- PREQ_PREEMPT (R279, R424). -/
def execPreqPreempt (p : PartId) (q : Fin 64) (s : State) : Out1 :=
  s.byScheduler p.val 289 (wOf (256 + q.val)) (s.preempt p.val q.val)
/-- PREQ_RESUME (R408, R424). -/
def execPreqResume (p : PartId) (q : Fin 64) (s : State) : Out1 :=
  s.byScheduler p.val 289 (wOf (512 + q.val)) (s.resume p.val q.val)
/-- RCVR_REPLAY (R397, R424). -/
def execRcvrReplay (p : PartId) (q : Fin 64) (role : Fin 256) (s : State) : Out1 :=
  s.byScheduler p.val 290 (wOf (q.val + 256 * role.val)) (s.rcvrReplay p.val q.val role.val)
/-- RCVR_REBIND_REPLAY (R390, R424). -/
def execRcvrRebindReplay (p : PartId) (q : Fin 64) (role : Fin 256) (ent : BitVec 32) (s : State) : Out1 :=
  s.byScheduler p.val 290 (wOf (q.val + 256 * role.val + 65536 + ent.toNat * 2 ^ 32)) (s.rcvrRebind p.val q.val role.val ent.toNat)
/-- RCVR_ABORT (R390, R424). -/
def execRcvrAbort (p : PartId) (q : Fin 64) (role : Fin 256) (s : State) : Out1 :=
  s.byScheduler p.val 290 (wOf (q.val + 256 * role.val + 131072)) (s.rcvrAbort p.val q.val role.val)
/-- FDEM_ROLE (R304, R425). -/
def execFdemRole (p : PartId) (q : Fin 64) (role : Fin 256) (ent : BitVec 32) (s : State) : Out1 :=
  s.byScheduler p.val 291 (wOf (q.val + 256 * role.val + ent.toNat * 2 ^ 32)) (s.demoteRole p.val q.val role.val ent.toNat)
/-- FDEM_OBJECT (R304, R425). -/
def execFdemObject (p : PartId) (tier : Fin 4) (obj : BitVec 32) (s : State) : Out1 :=
  s.byScheduler p.val 291 (wOf (65536 + tier.val * 1048576 + obj.toNat * 2 ^ 32)) (s.demoteObject p.val tier.val obj.toNat)
/-- QCFG_WRITE (R263). -/
def execQcfgWrite (p : PartId) (q : Fin 64) (v : Word) (s : State) : Out1 :=
  s.byScheduler p.val (320 + q.val) v (s.qcfgAct p.val q.val v)
/-- WAKE_WRITE (R419). -/
def execWakeWrite (v : BitVec 6) (s : State) : Out1 := .next (s.wakeAct v)
/-- PSTL_LOAD (R440). -/
def execPstlLoad (s : State) : Out1 := s.byRoot 596 1 (s.tornRoot 596 1) (some s.loadPorts)

end Sys2Proof.Machine
end

