-- ==== Sys2Proof/Machine/Control.lean ====
section
/-! DEFINITION. Meeting words, traps and system calls, and the instructions of the firmware modes (R83 to R87, R413, R416 to R421). -/

namespace Sys2Proof.Machine

/-! ### Meeting words, traps, system calls (R83, R85, R413, R417, R419) -/

/-- The running engine stands at a meeting word, and the meeting may resolve. -/
def State.standAt (s : State) (w : Wait) : State := (s.setWait s.cur s.eng w).meet s.cur

/-- Whether the running core is in tile mode. -/
def State.inTile (s : State) : Bool := s.me.mode == .tile

/-- A privileged instruction: in a tile task it takes a privilege fault (R42, R412). -/
def State.privileged (s : State) (r : Out1) : Out1 := if s.inTile then s.trapNow .privilege else r

/-- HOP (R83). -/
def execHop (s : State) : Out1 := .next (s.standAt (.meet 43))
/-- STEP (R83). -/
def execStep (s : State) : Out1 := .next (s.standAt (.meet 44))
/-- END: the engine stops there for good (R83). It has passed the word, so its pass count rises (R31), and its program counter
stays at the END (DEDUCED; log 13). -/
def execEndTask (s : State) : Out1 :=
  let c := s.me
  let s := s.setMe { c with pass := c.pass.set s.eng (c.pass.get s.eng + 1) }
  .next (s.standAt .ended)
/-- TRAP n: a tile task stops with a software-trap record (R85); a firmware core takes the fault of that class (R415). -/
def execTrap (n : BitVec 8) (s : State) : Out1 :=
  if s.inTile then .next (s.softStop .trap n.toNat) else s.trapNow .trap (wOf n.toNat)
/-- SYSC n: a tile task stops with a system-call record; in the firmware modes it is a meeting word (R417). -/
def execSysc (n : BitVec 8) (s : State) : Out1 :=
  if s.inTile then .next (s.softStop .syscall n.toNat) else .next (s.standAt (.meet (48 + 256 * n.toNat)))
/-- ERET: a meeting word of the firmware modes, which returns from the exception (R413, R414). -/
def execEret (s : State) : Out1 := s.privileged (.next (s.standAt (.meet 49)))
/-- HALT: a meeting word that waits for a wake event (R413, R419). -/
def execHalt (s : State) : Out1 := s.privileged (.next (s.standAt (.meet 51)))

/-! ### Fault reports (R418) -/

/-- Word k of the fault report of the running engine's copy. -/
def State.reportWord (s : State) (k : Fin 3) : Word := s.me.getC s.eng (64 + k.val)

/-- FLTR (R418). -/
def execFltr (d : Reg) (k : Fin 3) (s : State) : Out1 := .next (s.finishX 1 d (s.reportWord k))
/-- FLTR.clr: reads, and then clears the three words of its copy (R418). -/
def execFltrClr (d : Reg) (k : Fin 3) (s : State) : Out1 :=
  let v := s.reportWord k
  let c := s.me
  .next ((s.setMe (((c.setC s.eng 64 0).setC s.eng 65 0).setC s.eng 66 0)).finishX 1 d v)

/-! ### Bindings and residency (R86, R87) -/

/-- The outcome of an X instruction that may fault or wait. -/
def State.settleX (s : State) (r : Except Stop State) : Out1 :=
  match r with
  | .ok t => .next t
  | .error (.trap f) => .next (s.takeFault s.cur s.eng f)
  | .error (.wait t) => .next (t.setWait t.cur t.eng .memory)

/-- BINDQ, logged (R19, R86, R396). -/
def execBindq (d a : Reg) (s : State) : Out1 :=
  s.settleX (s.logged (fun s =>
    match s.taskOf s.cur with
    | none => .ok (0, s)
    | some (_, _, l) =>
      let r := (s.rd a).toNat
      if l.n ≤ r then fail .role (s.rd a) else .ok (l.table.getD r 0, s))
    fun v s => .ok (s.finishX 2 d v))

/-- What TIERQ reports for a virtual bit address: bits [8:0] of STATE, or 0 (R87, R288). -/
def State.tierOf (s : State) (va : Nat) : Nat :=
  match s.pageOf s.me.mode s.me.part (va / 524288) .none, s.objectAt s.me.part va with
  | .ok _, some (_, a) => s.objectState s.me.part a
  | _, _ => 0

/-- TIERQ, logged (R87, R396). -/
def execTierq (d a : Reg) (s : State) : Out1 :=
  s.settleX (s.logged (fun s => .ok (wOf (s.tierOf (s.rd a).toNat), s.tookRecord (s.rd a).toNat)) fun v s => .ok (s.finishX 2 d v))

/-! ### Whole contexts (R420) -/

/-- The 512 pages of a 32 MiB image at a byte address, all in memory that the caller reaches. -/
def State.imagePages (s : State) (n : Need) (at_ : Word) : Except Stop (List Seg) :=
  if at_.toNat % 65536 != 0 then fail .alignment at_
  else if 2 ^ 61 ≤ at_.toNat then fail .access at_
  else match s.resolve n [(8 * at_.toNat, 8 * imageBytes)] with
    | .ok [gs] => .ok gs
    | _ => fail .access at_

/-- The unit that s[a] names for CTXSV and CTXRS; control mode may name only units of its own partition. -/
def State.contextUnit (s : State) (v : Word) : Except Stop CoreId :=
  let ent := v.toNat
  if !entOk ent || decide (2 ^ 32 ≤ ent) then fail .privilege v
  else if s.me.mode == .control && !s.ownsUnit s.me.part (entCore ent) then fail .privilege v
  else .ok (entCore ent)

/-- A page is plain DRAM, which is written and read whole: no port page, in no open shadow region, of no lost stack. -/
def State.plainPage (s : State) (g : Seg) : Bool :=
  let a := g.1 / 8
  let n := g.2 / 8
  s.region a == .dram && (s.portPage a).isNone && (s.failedAt a).isNone &&
    !s.memory.shadows.any fun x => x.ranges.any fun r => decide (r.1 < a + n) && decide (a < r.1 + r.2)

/-- Stores an image over its pages: plain DRAM as a whole, and anything else as a store of its bits (R116, R127, R257, R451). -/
def State.storePages (s : State) (gs : List Seg) (cells : Sparse Byte) : Except Stop State :=
  if gs.all s.plainPage then
    .ok (gs.foldl (fun (acc : State × Nat) (g : Seg) =>
      (acc.1.storeCells (g.1 / 8) (g.2 / 8) (cutCells acc.2 (g.2 / 8) cells), acc.2 + g.2 / 8)) (s, 0)).1.firmwareWrote
  else s.writeSegs gs (natOfBytes (cells.slice 0 0 imageBytes))

/-- The cells of an image, and the state in which what was read is put right: plain DRAM as a whole, and anything else as a load of its bits
(R257, R402, R404, R443). -/
def State.loadPages (s : State) (gs : List Seg) : Except Stop (Sparse Byte × State) :=
  if gs.all s.plainPage then
    match gs.find? fun g => s.badSector (g.1 / 8) (g.2 / 8) with
    | some g => fail .sectorCode (wOf g.1)
    | none =>
      let r := gs.foldl (fun (acc : Sparse Byte × Nat) (g : Seg) =>
        (acc.1 ++ moved acc.2 (s.cellsAt (g.1 / 8) (g.2 / 8)), acc.2 + g.2 / 8)) (([] : Sparse Byte), 0)
      .ok (r.1, gs.foldl (fun s g => s.took s.me.part (g.1 / 8) (g.2 / 8)) s)
  else (s.readSegs gs).map fun r => (Sparse.entries 0 0 (bytesOfNat imageBytes r.1), r.2)

/-- The state of a unit that CTXRS leaves: all of the image but program counters, pass counts, FIFOs, scalars and pending
updates, which the next start sets again. -/
def Core.ofContext (c : Core) (cells : Sparse Byte) : Core :=
  { c.ofSaved cells with
    pc := c.pc, pass := c.pass, scal := c.scal, fifo := c.fifo, upds := c.upds, made := c.made, known := c.known, kcache := [] }

/-- CTXSV reads a unit's state, put right where its code corrects it; an uncorrectable word or sector of it ends the instruction as another
read of one does (R402, R404, R405). -/
def State.readUnit (s : State) (k : CoreId) : Except Stop State :=
  let s := s.takeSlabs k
  if s.tornWord k then fail .storage
  else if !(s.badPlaces k).isEmpty then fail .sectorCode
  else .ok (s.scrubUnit k)

/-- The image lies outside the window of the unit that the instruction works on (R23). -/
def outsideUnit (k : CoreId) (gs : List Seg) : Bool :=
  gs.all fun g => match windowOf (g.1 / 8) with | some (u, _) => u != k | none => true

/-- What a CTXSV or CTXRS of the running engine that waits has begun. -/
def State.work (s : State) : Option CtxWork := s.edge.ctx.find? fun x => x.core == s.cur && x.eng == s.eng

/-- The instruction's work is over: its requests to another module and its claim on the unit go (R420, R443). -/
def State.endWork (s : State) : State :=
  if s.edge.asks.isEmpty && s.edge.ctx.isEmpty then s
  else s.setEdge { s.edge with
    asks := s.edge.asks.filter fun a => !(a.core == s.cur && a.eng == s.eng)
    ctx := s.edge.ctx.filter fun x => !(x.core == s.cur && x.eng == s.eng) }

/-- While its requests are under way, the instruction works on unit k, of which CTXSV has read these cells (R23, R420). -/
def workingOn {α : Type} (k : CoreId) (cells : Sparse Byte) (r : Except Stop α) : Except Stop α :=
  match r with
  | .error (.wait t) =>
    .error (.wait (if t.work.isSome then t else t.setEdge { t.edge with ctx := t.edge.ctx ++ [⟨t.cur, t.eng, k, cells⟩] }))
  | r => r

/-- CTXSV (R420): the state that it saves is read once. -/
def execCtxsv (d a b : Reg) (s : State) : Out1 := s.privileged (s.settleX (do
  let k ← s.contextUnit (s.rd a)
  let gs ← s.imagePages .write (s.rd b)
  let c := s.core k
  match s.work with
  | some w => do
    let s ← s.storePages gs w.cells
    .ok (s.endWork.finishX 2 d 0)
  | none =>
    if c.owner.isSome && c.stopped.isNone then .ok (s.finishX 2 d 1)
    else do
      need (outsideUnit k gs) .access (s.rd b)
      let s ← s.readUnit k
      let cells := cutCells 0 imageBytes ((s.core k).savedImage s.ccnt (s.sclkOf k))
      let s ← workingOn k cells (s.storePages gs cells)
      .ok (s.finishX 2 d 0)))

/-- CTXRS (R420). -/
def execCtxrs (d a b : Reg) (s : State) : Out1 := s.privileged (s.settleX (do
  let k ← s.contextUnit (s.rd a)
  let gs ← s.imagePages .read (s.rd b)
  let c := s.core k
  if c.owner.isSome && s.work.isNone then .ok (s.finishX 2 d 1)
  else do
    need (outsideUnit k gs) .access (s.rd b)
    let r ← workingOn k [] (s.loadPages gs)
    .ok (((r.2.cleanUnit k).setCore k (c.ofContext r.1)).endWork.finishX 2 d 0)))

/-! ### Translations (R371, R421) -/

/-- A cached translation overlaps bits lo to lo + n - 1. -/
def cachedOver (lo n : Nat) (x : Nat × Nat × Nat × Nat) : Bool :=
  let size := 8 * pageBytes x.2.2.2
  let first := x.2.1 * 524288 / size * size
  decide (first < lo + n) && decide (lo < first + size)

/-- The partition for which an agent makes its requests over the links (R441). -/
def State.askerPart (s : State) (k : CoreId) : Option Nat :=
  if k < 4096 then (if (s.core k).owner.isSome then some (s.core k).part else none)
  else if 4194304 ≤ k then some (s.taskPart (k - 4194304))
  else if hostAsker 0 ≤ k then s.partOfVf (k - hostAsker 0)
  else if schedAsker 0 ≤ k then some ((k - schedAsker 0) / 64)
  else if stepAsker 0 ≤ k then (s.launch (k - stepAsker 0)).map (·.part)
  else some (s.taskPart (k - 1048576))

/-- An access of partition p may still use a translation of bits lo to lo + n - 1: one that is under way over the links, a queued COPY or RED,
a spanning window of a communication step, or rows that an open command group holds (R371). -/
def State.usesRange (s : State) (p lo n : Nat) : Bool :=
  let hits (va bits : Nat) : Bool := decide (va < lo + n) && decide (lo < va + bits)
  let end_ (bits : Nat) (x : Place) : Bool := match x with | .mem va _ => hits va bits | _ => false
  (s.edge.asks.any fun a => s.askerPart a.core == some p && decide (a.flit.kind.toNat < 4)) ||
    (s.sched.tasks.any fun x => s.taskPart x.1 == p && (match x.2.group with
      | some g => g.pages.any fun vp => hits (524288 * vp) 524288
      | none => false)) ||
    s.sched.launches.any fun x => x.2.part == p &&
      ((x.2.cmds.any fun c => match c.work with | .copy a b bits => end_ bits a || end_ bits b | .red _ => false) ||
       x.2.wins.any fun w => (w.spans || !w.got.isEmpty) && hits w.base (w.n * w.ty.width))

/-- XLINV: s[d] names the partition. The translations go at once, and it retires when no access that used one is under way (R371,
R421). -/
def execXlinv (d a b : Reg) (s : State) : Out1 :=
  let v := s.rd d
  let p := wField v 0 4
  let lo := (s.rd a).toNat
  let n := min (lo + (s.rd b).toNat) Config.vaLimit - lo
  s.privileged (
    if s.me.mode == .control && p != s.me.part then s.trapNow .privilege v
    else if wField v 4 60 != 0 then s.trapNow .layout v
    else if n = 0 then .next (s.passX 2)
    else
      let t := s.setMemory { s.memory with tlb := s.memory.tlb.filter fun x => !(x.1 == p && cachedOver lo n x) }
      if s.usesRange p lo n then .next (t.setWait t.cur t.eng .memory) else .next (t.passX 2))

end Sys2Proof.Machine
end

