-- ==== Sys2Proof/Machine/Csr.lean ====
section
/-! DEFINITION. Control and status registers: which numbers a mode reaches, what their fields may hold, and what reading and writing
them does (R65 to R70, R411, R412, R422 to R426, R440). -/

namespace Sys2Proof.Machine

/-- How a CSR may be accessed. -/
inductive Access where
  | ro | rw | wo
  deriving DecidableEq, Repr

/-- Whether a number lies in a range. -/
def within (lo hi n : Nat) : Bool := decide (lo ≤ n) && decide (n ≤ hi)

/-- The CSRs of a tile task (R65). -/
def tileCsr (n : Nat) : Option Access :=
  if within 0 6 n || n == 48 || within 64 66 n then some .ro
  else if within 16 24 n || within 32 47 n then some .rw
  else none

/-- The control-mode CSRs (R422). -/
def controlCsr (n : Nat) : Option Access :=
  if n == 256 || n == 279 then some .ro
  else if n == 290 || n == 291 then some .wo
  else if within 257 260 n || within 272 278 n || n == 280 || n == 281 || n == 288 || n == 289 || within 320 383 n then some .rw
  else none

/-- The root-mode CSRs (R423, R440). -/
def rootModeCsr (n : Nat) : Option Access :=
  if n == 578 then some .ro
  else if n == 516 || n == 528 || n == 596 then some .wo
  else if within 512 515 n || within 544 575 n || n == 576 || n == 577 || within 592 595 n || n == 597 || within 608 623 n then some .rw
  else none

/-- What a mode makes of a CSR number (R411, R412). -/
inductive CsrAt where
  | listed (a : Access) | reserved | privilege
  deriving DecidableEq, Repr

def csrIn (m : Mode) (n : Nat) : CsrAt :=
  let of_ (x : Option Access) : CsrAt := match x with | some a => .listed a | none => .reserved
  if n < 256 then of_ (tileCsr n)
  else match m with
    | .tile => .privilege
    | .control => if n < 512 then of_ (controlCsr n) else .privilege
    | .root => if n < 512 then of_ (controlCsr n) else if n < 768 then of_ (rootModeCsr n) else .reserved

/-- No reserved bit is set and no field holds a reserved value, for CSRs that are plain registers (R65 to R67, R184, R422,
R423, R440). -/
def csrFieldsOk (n : Nat) (w : Word) : Bool :=
  let v := w.toNat
  if n == 16 then within 1 65535 v
  else if n == 17 then decide (v < 8388608) && field v 5 11 == 0 && decide (field v 16 7 ≤ 64) && decide (v % 32 ≤ 16)
  else if n == 18 then decide (v < 16)
  else if n == 20 then decide (v < 256)
  else if n == 21 then decide (v < 32)
  else if n == 22 then decide (v < 64)
  else if n == 23 then within 1 4 v
  else if n == 24 then decide (v < 4294967296)
  else if within 32 47 n then bankWordOk v
  else if n == 257 || n == 512 then v % 32 == 0
  else if n == 259 then decide (v < 131072)
  else if n == 272 then v % 1024 == 0
  else if n == 273 then decide (v ≤ 65536)
  else if n == 274 then v % 134217728 == 0
  else if n == 275 then within 1 65536 v
  else if n == 276 || n == 278 || n == 577 then decide (v < 65536)
  else if n == 277 || n == 280 || n == 576 || within 544 559 n then v % 65536 == 0
  else if n == 281 then decide (v < 4294967296)
  else if n == 514 then decide (v < 1048576) && !v.testBit 15 && field v 13 2 != 3
  else if within 560 575 n then decide (v < 512) && field v 5 3 == 0 && decide (v % 32 < 20)
  else if n == 592 then decide (v < 2097152)
  else if n == 593 then within 1 432 v
  else if n == 594 then decide (v < 68719476736)
  else if n == 595 || n == 597 then v % 4096 == 0
  else if within 608 623 n then decide (v < 131072)
  else true

/-- The set of control-mode CSRs that the running core reaches: its own, or for the root core a set of its own, number 20
(DEDUCED, log 11). -/
def State.csrSet (s : State) : Nat := if s.cur = rootId then 20 else s.cur - 768

/-- MODEI (R422): the mode is 0 tile, 1 control, 2 root. -/
def State.modei (s : State) : Word :=
  let m := match s.me.mode with | .tile => 0 | .control => 1 | .root => 2
  wOf (m + s.me.part % 16 * 16 + (if s.cur = rootId then 0 else (s.cur - 768) % 32 * 256))

/-- SCLK: cycles since the chip barrier last released (R65, R275). -/
def State.sclk (s : State) : Word := s.sclkOf s.cur

/-- The value of a CSR as the running engine reads it. -/
def State.csrValue (s : State) (n : Nat) : Word :=
  let p := s.me.part
  if n < 256 then
    if n == 5 then s.ccnt else if n == 6 then s.sclk else if n == 48 then s.me.toks else s.me.getC s.eng n
  else if n == 256 then s.modei
  else if n == 289 then
    let q := wField (s.ctl s.csrSet 289) 0 6
    match s.launch (64 * p + q) with
    | some l => wOf (q + (if l.preempt = .pending then 1024 else 0) + (if l.preempt = .saved then 2048 else 0))
    | none => wOf q
  else if n == 290 || n == 291 || n == 516 || n == 528 || n == 596 then 0
  else if within 320 383 n then (s.queue (64 * p + (n - 320))).next
  else if n < 512 then s.ctl s.csrSet n
  else s.rootCsr n

/-- A PREQ write (R424). -/
def State.preqAct (s : State) (p : Nat) (v : Word) : Option State :=
  let q := wField v 0 6
  if wField v 6 2 != 0 || wField v 12 52 != 0 || wField v 8 2 == 3 || (s.launch (64 * p + q)).isNone then none
  else
    let s := s.setCtl s.csrSet 289 (wOf q)
    if v.getLsbD 8 then s.preempt p q else if v.getLsbD 9 then s.resume p q else some s

/-- A PACT write (R426). -/
def State.pactAct (s : State) (v : Word) : Option State :=
  let p := wField v 0 4
  if wField v 52 12 != 0 then none
  else match wField v 4 2 with
    | 0 => s.activate p (wField v 6 46 * 64)
    | 1 => some (s.resetPart p)
    | 2 => some (s.disable p)
    | _ => none

/-- Another partition holds the same valid key (R440). -/
def State.keyTaken (s : State) (n : Nat) (v : Word) : Bool :=
  v.getLsbD 16 && (List.range 16).any fun p =>
    608 + p != n && (s.rootCsr (608 + p)).getLsbD 16 && wField (s.rootCsr (608 + p)) 0 16 == wField v 0 16

/-- A control core begins to serve a partition: control mode, from address 0 (DESIGN CHOICE, log 11); or it serves none. The core that
served it is pre-empted, which is a wake event (R419; DEDUCED, log 11). -/
def State.assignControl (s : State) (p : Nat) (v : Word) : State :=
  let old := s.rootCsr (560 + p)
  if old = v then s
  else
    let s := s.setRootCsr (560 + p) v
    let s := if old.getLsbD 8 then s.wake (768 + wField old 0 5) else s
    let s := if old.getLsbD 8 then s.dismissFirmware (wField old 0 5) else s
    if !v.getLsbD 8 then s
    else
      let k := wField v 0 5
      let id := 1024 + k
      let s := s.dismissFirmware k
      let s := s.setCore (768 + k) { Core.rootReset with mode := .control, part := p, owner := some (id * 256) }
      let s := s.setLaunch id { Launch.firmware (768 + k) with part := p, order := s.turns, released := s.ccnt }
      s.setTask (id * 256) (Task.start id 0 (768 + k))

/-- Root firmware ends the last boot steps by what it writes. The spec gives no register by which it declares step 6 done or the module ready:
which write of BID, the routes or a key ends step 6, once a key is valid, and which later write of a root-mode CSR sets READY, is free
(R438, R453; DESIGN CHOICE, log 4). -/
def State.bootOn (s : State) (n : Nat) : State :=
  let v := s.edge.pfStatus
  let step (k ready : Nat) : State := s.setEdge { s.edge with pfStatus := wOf (v.toNat - wField v 4 4 * 16 + 16 * k + 2 * ready) }
  if wField v 4 4 = 5 && (n == 592 || n == 597 || within 608 623 n) && (List.range 16).any (fun p => (s.rootCsr (608 + p)).getLsbD 16) &&
      s.choose 3 2 == 0 then step 6 0
  else if wField v 4 4 = 6 && s.choose 3 2 == 0 then step 7 1
  else s

/-- Writes a root-mode CSR: none where the value is refused (R423, R426, R440). -/
def State.rootWrite (s : State) (n : Nat) (v : Word) : Option State :=
  if n == 516 then if v.toNat < 64 then some (s.wakeAct (v.setWidth 6)) else none
  else if n == 528 then s.pactAct v
  else if within 560 575 n then some (s.assignControl (n - 560) v)
  else if n == 577 then
    let s := s.setRootCsr 577 v
    some (s.flushRecords true 0 s.edge.records.length)
  else if n == 596 then if v = 1 then some s.loadPorts else if v = 0 then some s else none
  else if within 608 623 n then if s.keyTaken n v then none else some (s.setRootCsr n v)
  else some (s.setRootCsr n v)

/-- WRITES a CSR: none where the value is refused (R68, R424 to R426, R440). -/
def State.csrWrite (s : State) (n : Nat) (v : Word) : Option State :=
  let p := s.me.part
  if !csrFieldsOk n v || (n == 280 && s.cur != rootId && !s.ownsDram p v.toNat) then none
  else if n < 256 then some (s.setMe (s.me.setC s.eng n v))
  else if n == 272 || n == 273 then some (s.setCtl s.csrSet n v).recordsWritten
  else if n == 278 then
    let s := s.setCtl s.csrSet 278 v
    some (s.flushRecords false p s.edge.records.length)
  else if n == 288 then (s.pbindAct p v).map fun t => t.setCtl t.csrSet 288 v
  else if n == 289 then s.preqAct p v
  else if n == 290 then s.rcvrAct p v
  else if n == 291 then s.fdemAct p v
  else if within 320 383 n then s.qcfgAct p (n - 320) v
  else if n < 512 then some (s.setCtl s.csrSet n v)
  else (s.rootWrite n v).map fun t => t.bootOn n

/-- The checks that precede a CSR instruction: check 7 of R40, then privilege (R69, R412). -/
def State.csrChecked (s : State) (n : Fin 4096) (writes : Bool) (r : Out1) : Out1 :=
  match csrIn s.me.mode n.val with
  | .reserved => s.trapNow .illegal 0 0 7
  | .privilege => s.trapNow .privilege (wOf n.val)
  | .listed .ro => if writes then s.trapNow .illegal 0 0 7 else r
  | .listed _ => r

/-- A CSR write of a new value, or the CSR-value fault with number and value (R68, R69). A write of PACT or PSTL that reads an uncorrectable sector
takes the sector-code fault (R404). -/
def State.csrPut (s : State) (n : Fin 4096) (v : Word) : Out1 :=
  s.csrChecked n true (match s.tornRoot n.val v, s.csrWrite n.val v with
    | some a, _ => s.trapNow .sectorCode (wOf (8 * a))
    | none, some t => .next (t.passX 1)
    | none, none => s.trapNow .csrValue (wOf n.val) v)

/-- CSRR; reads of CCNT, SCLK and TOKS are logged (R68, R396). -/
def execCsrr (r : Reg) (n : Fin 4096) (s : State) : Out1 :=
  s.csrChecked n false (
    if n.val == 5 || n.val == 6 || n.val == 48 then
      s.settleX (s.logged (fun s => .ok (s.csrValue n.val, s)) fun v s => .ok (s.finishX 1 r v))
    else .next (s.finishX 1 r (s.csrValue n.val)))

/-- CSRW (R68). -/
def execCsrw (r : Reg) (n : Fin 4096) (s : State) : Out1 := s.csrPut n (s.rd r)
/-- CSRS (R68). -/
def execCsrs (r : Reg) (n : Fin 4096) (s : State) : Out1 := s.csrPut n (s.csrValue n.val ||| s.rd r)
/-- CSRC (R68). -/
def execCsrc (r : Reg) (n : Fin 4096) (s : State) : Out1 := s.csrPut n (s.csrValue n.val &&& ~~~(s.rd r))

end Sys2Proof.Machine
end

