-- ==== Sys2Proof/Machine/Serve.lean ====
section
/-! DEFINITION. Requests that reach home slices from outside the cores: what a read, write, atomic, barrier request or placement delta
does, and its answer (R344, R373, R441, R443, R447, R451; payload layouts: log 14). -/

namespace Sys2Proof.Machine

/-- Every byte of n sectors from byte address a lies in DRAM that the partition owns (R373). -/
def State.ownsSectors (s : State) (p a n : Nat) : Bool := (List.range n).all fun i => s.ownsDram p (a + 16 * i)

/-- The error code with which a failed access is answered (R441): 1, an access refused. -/
def refusedCode : List Byte := [1]

/-- Two requests are the same one of the same sender. -/
def Asker.same : Asker → Asker → Bool
  | .berast x, .berast y => x.src == y.src && x.tag == y.tag
  | .oszin k x, .oszin j y => k == j && x.tag == y.tag
  | .flash x, .flash y => x.engine == y.engine && x.flit.tag == y.flit.tag
  | _, _ => false

/-- A waiting arrival that its sender withdraws leaves uncounted, with the answer 2^33; one that has been answered stays so (R123; log 14). -/
def State.withdraw (s : State) (who : Asker) (a : Nat) : State :=
  if s.memory.arrivals.any fun x => x.rcd == a && x.who.same who then
    (s.setMemory { s.memory with arrivals := s.memory.arrivals.filter fun x => !(x.rcd == a && x.who.same who) }).answerTo who 36
      (bytesOfNat 8 8589934592)
  else s

/-- A barrier request at the home slice of partition p: operation 0 BINI, 1 an arrival with its status, 2 BWAIT, 3 the withdrawal of a
waiting arrival. -/
def State.serveBarrier (s : State) (who : Asker) (p op num : Nat) (v : Word) : State :=
  let a := barrierAt p (num % 4194304)
  match op % 256 with
  | 0 => if v = 0 || 65535 < v.toNat then s.answerTo who 62 refusedCode
    else (s.initBarrier a v.toNat).answerTo who 36 (bytesOfNat 8 0)
  | 1 => s.deposit ⟨a, v, wOf (op / 256), p, wOf num, who⟩
  | 2 =>
    let s := s.tookOwn a 64
    if s.badSector a 64 then s.answerTo who 62 refusedCode
    else match s.waitStatus a v with
    | some w => s.answerTo who 36 (bytesOfNat 8 w.toNat)
    | none => s.setMemory { s.memory with waits := s.memory.waits ++ [(a, v, who)] }
  | 3 => s.withdraw who a
  | _ => s.answerTo who 62 refusedCode

/-- A placement delta applied once to the local copy (R344). One that finds no mapping there is dropped with a record, and one whose die
accepts no write yet waits (R451). -/
def State.serveDelta (s : State) (p : Nat) (va e delta : Nat) : Except Stop State :=
  let r := s.asDevice outsideAsker p fun s => do
    let at_ ← State.addrOk (va + 512 + 64 * (e % 512) + 32) 32
    let gss ← s.resolve .both [(at_, 32)]
    let gs := gss.headD []
    if gs.any (isRemote s) then fail .access
    else do
      let old ← s.readSegs gs
      old.2.writeSegs gs ((old.1 + delta) % 4294967296)
  match r with
  | .error (.trap _) => .ok (s.deviceRecord false p 9 va)
  | r => r

/-- The event that brings a placement delta again. -/
def Asker.again : Asker → Option Instr
  | .berast x => some (.berastPlcd x)
  | .flash x => some (.flashEngineRequest x)
  | _ => none

/-- SERVES one request for the partition p, or refuses it where no partition may make it (R373, R443). `addr` is the byte
offset in DRAM, n the sectors or pieces. No register holds a grant of remote barriers (R159, R365): the key of an enabled partition grants that
partition's whole barrier region (DESIGN CHOICE, log 22). -/
def State.serve (s : State) (who : Asker) (p : Option Nat) (kind addr n : Nat) (payload : List Byte) : State :=
  let num (o k : Nat) : Nat := natOfBytes ((payload.drop o).take k)
  match p with
  | none => s.answerTo who 62 refusedCode
  | some p =>
    if kind = 4 then s.serveBarrier who p (num 0 8) (num 8 8) (wOf (num 16 8))
    else if kind = 7 then
      match s.serveDelta p (num 0 8) (num 8 8) (num 16 8), who.again with
      | .ok t, _ => t.answerTo who 34 []
      | .error _, some i => s.push i
      | .error _, none => s.answerTo who 62 refusedCode
    else if s.dramBytes < addr + 16 * n then s.answerTo who 62 [2]
    else if !s.ownsSectors p addr n || (kind != 1 && (List.range n).any fun i => (s.portPage (addr + 16 * i)).isSome) then
      s.answerTo who 62 refusedCode
    else match kind with
      | 1 =>
        match mapEach (fun i => s.physBytes (addr + 16 * i) 16) (List.range n) with
        | .ok bs =>
          let s := (s.clearRows addr (16 * n)).scrub p addr (16 * n)
          (s.setMemory (s.memory.touch addr (16 * n))).answerTo who 33 bs.flatten
        | .error _ => s.answerTo who 62 refusedCode
      | 2 =>
        match s.writeSectors ((List.range n).map fun i => (addr / 16 + i, num (32 * i + 16) 16, num (32 * i) 16)) with
        | .ok t => t.answerTo who 34 []
        | .error _ => s.answerTo who 62 refusedCode
      | 3 =>
        let w := widthOf (num 1 1 % 8)
        let g : Seg := (8 * addr + num 2 1, w)
        if num 2 1 % w != 0 || decide (128 < num 2 1 + w) then s.answerTo who 62 refusedCode
        else match s.segBits g with
          | .error _ => s.answerTo who 62 refusedCode
          | .ok old =>
            let new := atomNew (num 0 1 % 16) w old (num 8 8 % 2 ^ w) (num 16 8 % 2 ^ w)
            match s.writeSectors [(addr / 16, (2 ^ w - 1) * 2 ^ num 2 1, new * 2 ^ num 2 1)] with
            | .ok t => t.answerTo who 35 (bytesOfNat 8 old)
            | .error _ => s.answerTo who 62 refusedCode
      | _ => s.answerTo who 62 refusedCode

/-- Something that a link brings of a reduction window is held until a communication step uses it (R446, R447). -/
def State.bring (s : State) (x : Gathered) : State := s.setEdge { s.edge with partials := s.edge.partials ++ [x] }

/-- The class of a fault in which an instruction ended on core k, where it had not stood stopped (R388). -/
def State.newStop (s t : State) (k : CoreId) : Option Nat :=
  if (s.core k).stopped.isSome then none else (t.core k).stopped

/-- Runs the W or F instruction that a stack or flash engine queues for an engine of the hub or core dies (R447, R451): its
operands stand in its registers a, b, d and the one after d, and the engine's own registers, program counter and tokens stay
as they are (log 14). The answer is its scalar result, or its fault class; none while the instruction waits. -/
def State.queueWork (s : State) (k : CoreId) (x : QueuedWork) : Nat ⊕ Option Word × State :=
  let run (y : MW) (e : Eng) (f : MW → State → Out1) : Nat ⊕ Option Word × State :=
    let y := { y with tk := ⟨false, false, false, false⟩ }
    let c := s.core k
    let regs := [y.a.val, y.b.val, y.d.val, (y.d.val + 1) % 32]
    let c1 := (regs.zip x.ops).foldl (fun (c : Core) r => c.setS e r.1 r.2) { c with popped := c.popped.set e [], wait := c.wait.set e .run }
    match f y ({ s with cur := k, eng := e }.setCore k c1) with
    | .next t =>
      let v := (t.core k).getS e y.d.val
      match s.newStop t k with
      | some cls => .inl cls
      | none =>
        let back : Core := { t.core k with
          scal := c.scal, pc := c.pc, pass := c.pass, wait := c.wait, popped := c.popped, upds := c.upds, made := c.made
          known := c.known, fifo := c.fifo }
        .inr (if (t.core k).wait.get e == .memory then none else some v, { t.setCore k back with cur := s.cur, eng := s.eng })
    | _ => .inl 1
  match decodeWords x.word0.toNat x.word1.toNat with
  | .ok (.copy y) => run y .w execCopy
  | .ok (.red y) => run y .w execRed
  | .ok (.crmProm y) => run y .w execCrmProm
  | .ok (.crmDem y) => run y .w execCrmDem
  | .ok (.prefArr y) => run y .f execPrefArr
  | .ok (.plcUpd y) => run y .w execPlcUpd
  | .ok (.plcApp y) => run y .w execPlcApp
  | .ok (.attp y) => run y .f execAttp
  | .ok (.attl y) => run y .f execAttl
  | .ok (.attf y) => run y .w execAttf
  | .ok (.strSeek y) => run y .f execStrSeek
  | .ok (.strDep y) => run y .w execStrDep
  | .ok (.strPin y) => run y .w execStrPin
  | .ok (.strRel y) => run y .w execStrRel
  | .ok (.strDrop y) => run y .w execStrDrop
  | .ok (.chnBeg y) => run y .w execChnBeg
  | .ok (.chnEnd y) => run y .w execChnEnd
  | _ => .inl 1

end Sys2Proof.Machine
end

