-- ==== Sys2Proof/Machine/Berast.lean ====
section
/-! DEFINITION. Flits that arrive over Berast: requests, answers, reductions, Churn blocks and placement deltas, dropped flits and
ports that go down (R330, R344, R373, R441 to R446). -/

namespace Sys2Proof.Machine

/-- The partition whose endpoint key a flit carries (R373, R440). A valid key is also the grant of that partition's barriers, which no register
holds apart (R159, R365; DESIGN CHOICE, log 22). -/
def State.partOfKey (s : State) (key : BitVec 16) : Option Nat :=
  (List.range 16).find? fun p =>
    (s.part p).enabled && (s.rootCsr (608 + p)).getLsbD 16 && wField (s.rootCsr (608 + p)) 0 16 == key.toNat

/-- A flit of this kind, for this module, without reserved bits (R441). -/
def State.flitTaken (s : State) (x : Flit) (kind : Nat) : Bool :=
  x.kind.toNat == kind && x.rsv == 0 && x.dst.toNat == (s.rootCsr 592).toNat % 2 ^ 21

/-- Bytes, filled up with zeros or cut to n. -/
def padTo (n : Nat) (bs : List Byte) : List Byte := (bs ++ List.replicate n 0).take n

/-- A request flit of a kind with between 1 and `most` sectors at an aligned offset is served and answered (R441, R443). -/
def State.berastServe (s : State) (x : Flit) (kind most : Nat) : State :=
  let n := x.nsec.toNat + 1
  if !s.flitTaken x kind || decide (most < n) || x.addr.toNat % 16 != 0 then s.dropFlit x
  else s.serve (.berast x) (s.partOfKey x.key) kind x.addr.toNat n x.payload

/-- BERAST_RD (R441, R443). -/
def execBerastRd (x : Flit) (s : State) : Out1 := .next (s.berastServe x 1 7)
/-- BERAST_WR (R441, R443). -/
def execBerastWr (x : Flit) (s : State) : Out1 := .next (s.berastServe x 2 3)
/-- BERAST_ATOM (R155, R441). -/
def execBerastAtom (x : Flit) (s : State) : Out1 := .next (s.berastServe x 3 1)
/-- BERAST_BAR (R159, R441). -/
def execBerastBar (x : Flit) (s : State) : Out1 := .next (s.berastServe x 4 8)
/-- BERAST_PLCD (R344, R441). -/
def execBerastPlcd (x : Flit) (s : State) : Out1 := .next (s.berastServe x 7 8)

/-- The type of the elements of a reduction flit: bit 2 of NSEC tells a 16-bit one, of which bit 11 of TAG tells f16 (log 14). -/
def redTy (x : Flit) : Ty := if x.nsec.getLsbD 2 then (if 2048 ≤ x.tag.toNat then .f16 else .bf16) else .f32

/-- What a REDP or REDM brings: the window's first element, its sector in ADDR and its place there in NSEC, and the piece in TAG (R441;
log 14). -/
def gatheredOf (what : Brought) (p : Nat) (x : Flit) : Gathered :=
  ⟨what, p, x.addr.toNat + 4 * (x.nsec.toNat % 4), redTy x, x.tag.toNat % 2048, padTo 112 x.payload⟩
def nullFlit (x : Flit) : Bool := x.tag.toNat == nullTag

/-- BERAST_REDP: a partial of a window that spans modules arrives and is held; a null adds nothing (R446). -/
def execBerastRedp (x : Flit) (s : State) : Out1 :=
  match s.partOfKey x.key, s.flitTaken x 5 && x.addr.toNat % 16 == 0 with
  | some p, true => .next (if nullFlit x then s else s.bring (gatheredOf .ofModule p x))
  | _, _ => .next (s.dropFlit x)

/-- A communication step of the partition runs. -/
def State.inStep (s : State) (p : Nat) : Bool := s.sched.launches.any fun l => l.2.part == p && l.2.phase == .comm

/-- A piece of a merged result that the partition may add: it waits for the end of the step of the launch that has named its window, or of
any that runs; a window that no launch here has named takes it at once (R132; log 22). -/
def State.takePiece (s : State) (x : Gathered) (f : Flit) : State :=
  if s.knowsWindow x.part x || s.inStep x.part then s.bring x
  else match s.addPiece x with
    | .ok t => t
    | .error _ => s.dropFlit f

/-- BERAST_REDM: a piece of the merged result reaches the home module, which adds the whole to dest after the commands of its step (R130,
R132, R446). Where the key's partition does not own what it adds to, the piece is dropped with a record. A null of a window that no launch here
has named adds nothing. -/
def execBerastRedm (x : Flit) (s : State) : Out1 :=
  match s.partOfKey x.key, s.flitTaken x 37 && x.addr.toNat % 16 == 0 with
  | some p, true =>
    let y := gatheredOf .merged p x
    if nullFlit x then .next (if s.knowsWindow p y then s.bring { y with what := .nothing } else s)
    else
      .next (if y.terms.all fun e => s.ownsDram p e.1 then s.takePiece y x else s.dropFlit x)
  | _, _ => .next (s.dropFlit x)

/-- BERAST_CHNB: a piece of a Churn block arrives in its slot (R330, R441). -/
def execBerastChnb (x : Flit) (s : State) : Out1 :=
  if !s.flitTaken x 6 then .next (s.dropFlit x)
  else match s.partOfKey x.key with
    | some p => .next (s.churnArrive p x)
    | none => .next (s.dropFlit x)

/-- A completion arrival at another module's barrier is counted, or refused, which goes to a record (R122, R134, R443). -/
def State.remoteDone (s : State) (x : Remote) (counted : Bool) : State :=
  let s := s.setEdge { s.edge with remotes := s.edge.remotes.erase x }
  if counted then s else s.partRecord x.part 3 x.ref.toNat x.phase.toNat x.status

/-- An answer reaches the request that its TAG names, of an engine or of a completion; an answer to nothing is discarded (R443). -/
def State.answered (s : State) (x : Flit) (kind : Nat) : State :=
  match s.edge.asks.find? fun a => a.flit.tag == x.tag && a.flit.dst == x.src && a.answer.isNone with
  | some a => s.setEdge { s.edge with asks := s.edge.asks.map fun b => if b = a then { b with answer := some (kind, x.payload) } else b }
  | none =>
    match s.edge.remotes.find? fun a => a.flit.tag == x.tag && a.flit.dst == x.src with
    | some a => s.remoteDone a (kind != 62 && natOfBytes (x.payload.take 8) != 4294967296)
    | none => s

/-- A response flit of a kind. -/
def State.berastAnswer (s : State) (x : Flit) (kind : Nat) : Out1 :=
  if s.flitTaken x kind then .next (s.answered x kind) else .next (s.dropFlit x)

/-- BERAST_RDR (R443). -/
def execBerastRdr (x : Flit) (s : State) : Out1 := s.berastAnswer x 33
/-- BERAST_ACK (R443). -/
def execBerastAck (x : Flit) (s : State) : Out1 := s.berastAnswer x 34
/-- BERAST_ATR (R443). -/
def execBerastAtr (x : Flit) (s : State) : Out1 := s.berastAnswer x 35
/-- BERAST_BRS (R443). -/
def execBerastBrs (x : Flit) (s : State) : Out1 := s.berastAnswer x 36

/-- The launches of a partition that run (R261). -/
def State.running (s : State) (p : Nat) : List LaunchId :=
  (s.sched.launches.filter fun x => decide (x.1 < 1024) && x.2.part == p && x.2.ending.isNone).map (·.1)

/-- BERAST_ERR: the requesting instruction takes an access fault with the code as its sub-cause (R443). Code 3, from the switch, gives up
the reduction of the window that ADDR names: its home launch leaves it unchanged and is aborted at the boundary with status 2 (R446). Where no
launch here has named the window, which of the partition's launches that is the flit does not say: it is free, and where none runs the flit is
dropped with a record (log 2, 22). -/
def execBerastErr (x : Flit) (s : State) : Out1 :=
  if !s.flitTaken x 62 then .next (s.dropFlit x)
  else if x.payload.headD 0 = 3 then
    match s.partOfKey x.key with
    | some p => .next (if s.knowsWindow p (gatheredOf .lost p x) then s.bring (gatheredOf .lost p x)
      else match (s.running p)[s.choose 20481 (s.running p).length]? with
        | some id => s.doomTask (id * 256)
        | none => s.dropFlit x)
    | none => .next (s.dropFlit x)
  else .next (s.answered x 62)

/-- BERAST_FLIT_DROP (R441). -/
def execBerastFlitDrop (x : Flit) (s : State) : Out1 := .next (s.dropFlit x)

/-- PORT_DOWN: the port leaves BPEN, root firmware has a record, and unanswered requests sent on it end with sub-cause 6, unless
their answer still comes on another path; a completion arrival so lost counts as refused, and Churn blocks lost on it break their rings.
Which are lost is free (R445; log 2). -/
def execPortDown (k : Fin 36) (s : State) : Out1 :=
  let asks := s.edge.asks.zipIdx.map fun (x : Ask × Nat) =>
    if x.1.answer.isNone && x.1.port == some k.val && s.choose (8192 + x.2) 2 == 0 then { x.1 with answer := some (62, [6#8]) } else x.1
  let gone := s.edge.remotes.zipIdx.filter fun (x : Remote × Nat) => x.1.port == some k.val && s.choose (12288 + x.2) 2 == 0
  let torn := s.sched.tasks.filter fun x => match x.2.ring with
    | some r => !r.broken && r.ports.contains k.val && s.choose (16384 + x.1) 2 == 0
    | none => false
  let s := s.setEdge { s.edge with asks := asks }
  let s := s.setRootCsr 594 (s.rootCsr 594 &&& ~~~(1#64 <<< k.val))
  let s := gone.foldl (fun s x => s.remoteDone x.1 false) s
  let s := torn.foldl (fun s x => s.breakRing x.1) s
  .next (s.deviceRecord true 0 6 k.val)

end Sys2Proof.Machine
end

