-- ==== Sys2Proof/Machine/Crypto.lean ====
section
/-! DEFINITION. SHA-512, and Ed25519 of RFC 8032, as R385 to R387 use them. Numbers are little-endian byte strings. -/

namespace Sys2Proof

/-! ### SHA-512 -/

/-- The primes below n. -/
def primesBelow (n : Nat) : List Nat :=
  (List.range n).filter fun p => decide (2 ≤ p) && (List.range p).all fun d => decide (d < 2) || p % d != 0

/-- The first 64 bits of the fraction of the e-th root of n, for n below 2^(7e): the largest r with r^e at most n × 2^(64e). -/
def rootFraction (e n : Nat) : Word :=
  wOf ((List.range 71).foldl (fun r i => let t := r + 2 ^ (70 - i); if t ^ e ≤ n * 2 ^ (64 * e) then t else r) 0)

/-- A word moved right around by each of three amounts, and joined; the third of `sigma` shifts zeros in. -/
def turned (x : Word) (i j k : Nat) : Word := x.rotateRight i ^^^ x.rotateRight j ^^^ x.rotateRight k
def sigma (x : Word) (i j k : Nat) : Word := x.rotateRight i ^^^ x.rotateRight j ^^^ (x >>> k)

/-- The sixteen big-endian words of a block. -/
def shaWords (block : List Byte) : List Word :=
  (groupsOf 8 block).map fun bs => wOf (natOfBytes bs.reverse)

/-- The eight working variables. -/
structure Sha where
  a : Word
  b : Word
  c : Word
  d : Word
  e : Word
  f : Word
  g : Word
  h : Word
  deriving DecidableEq, Repr

def Sha.words (x : Sha) : List Word := [x.a, x.b, x.c, x.d, x.e, x.f, x.g, x.h]

def Sha.add (x y : Sha) : Sha :=
  ⟨x.a + y.a, x.b + y.b, x.c + y.c, x.d + y.d, x.e + y.e, x.f + y.f, x.g + y.g, x.h + y.h⟩

/-- One round: `kw` is the sum of its constant and its word of the schedule. -/
def Sha.round (x : Sha) (kw : Word) : Sha :=
  let p := x.h + kw + turned x.e 14 18 41 + (x.g ^^^ (x.e &&& (x.f ^^^ x.g)))
  let q := turned x.a 28 34 39 + ((x.a &&& (x.b ||| x.c)) ||| (x.b &&& x.c))
  ⟨p + q, x.a, x.b, x.c, x.d + p, x.e, x.f, x.g⟩

/-- The rounds of a block: the schedule slides along, its next sixteen words at hand. -/
def shaRounds : List Word → List Word → Sha → Sha
  | [], _, x => x
  | k :: ks, ws, x =>
    let w (i : Nat) : Word := ws.getD i 0
    shaRounds ks (ws.drop 1 ++ [w 0 + sigma (w 1) 1 8 7 + w 9 + sigma (w 14) 19 61 6]) (x.round (k + w 0))

/-- The start of SHA-512: the roots of the first eight primes. -/
def shaStart : Sha :=
  match (primesBelow 20).map (rootFraction 2) with
  | [a, b, c, d, e, f, g, h] => ⟨a, b, c, d, e, f, g, h⟩
  | _ => ⟨0, 0, 0, 0, 0, 0, 0, 0⟩

/-- SHA-512 of a message: 64 bytes. The round constants come from the cube roots of the first 80 primes. -/
def sha512 (m : List Byte) : List Byte :=
  let zeros := (239 - m.length % 128) % 128
  let text := m ++ 128#8 :: List.replicate zeros 0 ++ (bytesOfNat 16 (8 * m.length)).reverse
  let ks := (primesBelow 410).map (rootFraction 3)
  let last := (groupsOf 128 text).foldl (fun x block => x.add (shaRounds ks (shaWords block) x)) shaStart
  last.words.flatMap fun v => (bytesOfNat 8 v.toNat).reverse

/-! ### Ed25519 -/

def edP : Nat := 2 ^ 255 - 19
/-- The order of the base point. -/
def edL : Nat := 2 ^ 252 + 27742317777372353535851937790883648493

/-- Powers mod p, by bits. -/
def edPow (x e : Nat) : Nat :=
  ((List.range 256).foldl (fun (r : Nat × Nat) i =>
    (if e.testBit i then r.1 * r.2 % edP else r.1, r.2 * r.2 % edP)) (1, x % edP)).1

def edInv (x : Nat) : Nat := edPow x (edP - 2)
/-- The curve constant d = -121665 / 121666. -/
def edD : Nat := (edP - 121665) * edInv 121666 % edP

/-- A point in extended coordinates. -/
structure EdPoint where
  x : Nat
  y : Nat
  z : Nat
  t : Nat
  deriving DecidableEq, Repr

def edZero : EdPoint := ⟨0, 1, 1, 0⟩

def edAdd (p q : EdPoint) : EdPoint :=
  let a := (p.y + edP - p.x) * (q.y + edP - q.x) % edP
  let b := (p.y + p.x) * (q.y + q.x) % edP
  let c := 2 * p.t * q.t * edD % edP
  let d := 2 * p.z * q.z % edP
  let e := b + edP - a
  let f := d + edP - c
  let g := d + c
  let h := b + a
  ⟨e * f % edP, g * h % edP, f * g % edP, e * h % edP⟩

/-- n times a point. -/
def edMul (n : Nat) (p : EdPoint) : EdPoint :=
  ((List.range 256).foldl (fun (r : EdPoint × EdPoint) i =>
    (if n.testBit i then edAdd r.1 r.2 else r.1, edAdd r.2 r.2)) (edZero, p)).1

/-- The x of a y and a sign, if there is one. -/
def edX (y sign : Nat) : Option Nat :=
  if edP ≤ y then none
  else
    let x2 := (y * y + edP - 1) * edInv (edD * (y * y % edP) + 1) % edP
    if x2 = 0 then (if sign = 1 then none else some 0)
    else
      let r := edPow x2 ((edP + 3) / 8)
      let r := if r * r % edP = x2 then r else r * edPow 2 ((edP - 1) / 4) % edP
      if r * r % edP ≠ x2 then none else some (if r % 2 = sign then r else edP - r)

/-- The base point. -/
def edBase : EdPoint :=
  let y := 4 * edInv 5 % edP
  let x := (edX y 0).getD 0
  ⟨x, y, 1, x * y % edP⟩

/-- A point as 32 bytes, and back. -/
def edEncode (p : EdPoint) : List Byte :=
  let i := edInv p.z
  let x := p.x * i % edP
  let y := p.y * i % edP
  bytesOfNat 32 (y + x % 2 * 2 ^ 255)

def edDecode (bs : List Byte) : Option EdPoint :=
  if bs.length ≠ 32 then none
  else
    let n := natOfBytes bs
    let y := n % 2 ^ 255
    (edX y (n / 2 ^ 255)).map fun x => ⟨x, y, 1, x * y % edP⟩

/-- The secret scalar and prefix of a 32-byte seed. -/
def edSecret (seed : List Byte) : Nat × List Byte :=
  let h := sha512 seed
  let a := natOfBytes (h.take 32)
  (a % 2 ^ 254 / 8 * 8 + 2 ^ 254, h.drop 32)

/-- The public key of a seed. -/
def edPublic (seed : List Byte) : List Byte := edEncode (edMul (edSecret seed).1 edBase)

/-- The signature of a message under a seed: 64 bytes. -/
def edSign (seed m : List Byte) : List Byte :=
  let s := edSecret seed
  let r := natOfBytes (sha512 (s.2 ++ m)) % edL
  let rb := edEncode (edMul r edBase)
  let k := natOfBytes (sha512 (rb ++ edPublic seed ++ m)) % edL
  rb ++ bytesOfNat 32 ((r + k * s.1) % edL)

/-- Whether a signature of a message verifies under a public key. -/
def edVerify (key m sig : List Byte) : Bool :=
  match edDecode key, edDecode (sig.take 32) with
  | some a, some r =>
    let s := natOfBytes (sig.drop 32)
    let k := natOfBytes (sha512 (sig.take 32 ++ key ++ m)) % edL
    sig.length == 64 && decide (s < edL) && edEncode (edMul s edBase) == edEncode (edAdd r (edMul k a))
  | _, _ => false

end Sys2Proof
end

