-- ==== Sys2Proof/Machine/Oszin.lean ====
section
/-! DEFINITION. Messages of the DRAM stacks' links: sector reads and writes with their check bytes, command groups, slot tables,
identity and repair blocks, watchdog resets, clearing, and the requests of stack engines (R167 to R170, R374 to R384, R447 to R449; the
layouts that R447 leaves open: log 14). -/

namespace Sys2Proof.Machine

/-! ### Addresses and answers -/

/-- Byte address of a sector of a stack: channel, and the sector number SN within it (R138, R447). -/
def stackSector (stack ch sn : Nat) : Nat :=
  let row := sn / 4096
  let bank := sn / 128 % 32
  let column := sn / 8 % 16
  lineAddr (16 * stack + ch / 4) (row * 2048 + bank * 64 + column * 4 + ch % 4) + 16 * (sn % 8)

/-- A flit of a kind, without reserved bits (R447). -/
def oflitOk (x : OFlit) (kind : Nat) : Bool := x.kind.toNat == kind && x.rsv == 0

/-- A flit sent in answer over the link of a stack, its reserved bits 0 (R6). -/
def State.oszinOut (s : State) (stack : Nat) (x : OFlit) (kind : Nat) (slots fld : List Byte) : State :=
  s.emit (.oszin stack { x with kind := BitVec.ofNat 6 kind, rsv := 0, slots := padTo 40 slots, field := padTo 16 fld })

/-- ERR with a code (R449). -/
def State.oszinFail (s : State) (stack : Nat) (x : OFlit) (code : Nat) : State :=
  s.oszinOut stack x 63 [] [BitVec.ofNat 8 code]

/-- A message to a stack that is lost is answered with ERR code 5 (R449). -/
def State.unlessLost (s : State) (stack : Nat) (x : OFlit) (f : State → State) : State :=
  if s.edge.stacksLost.contains stack then s.oszinFail stack x 5 else f s

/-- A well-formed message of a kind is handled; any other is answered with ERR code 6 (R447). -/
def State.oszinTake (s : State) (stack : Nat) (x : OFlit) (kind : Nat) (f : State → State) : Out1 :=
  if oflitOk x kind then .next (f s) else .next (s.oszinFail stack x 6)

/-- Sectors that RD and WR name: one, or two where bit 0 of byte 0 of the field is 1. -/
def oszinSectors (stack : Nat) (x : OFlit) : List Nat :=
  let n := if (x.field.headD 0).getLsbD 0 then 2 else 1
  (List.range n).map fun i => stackSector stack x.ch.toNat (x.sn.toNat + i)

/-- Stored check bytes of a sector: its own, or the code of its bytes (R401). -/
def State.checkBytes (s : State) (k : Nat) : List Byte :=
  match s.memory.check.get 0 k with
  | 0 => (codeCheck k (s.memory.bytes.slice 0 (16 * k) 16)).map fun c => BitVec.ofNat 8 c
  | c => bytesOfNat 4 c

/-- Stores a sector with the check bytes that come with it (R34, R401, R447). -/
def State.putSector (s : State) (a : Nat) (data check : List Byte) : State :=
  let s := s.settle a 16
  let c := natOfBytes check
  let own := natOfBytes ((codeCheck (a / 16) data).map fun v => BitVec.ofNat 8 v)
  s.setMemory { s.memory with
    oldText := s.keepText (s.replaced a data)
    bytes := s.memory.bytes.splice 0 a data
    check := s.memory.check.put 0 (a / 16) (if c = own then 0 else 2 ^ 32 + c) }

/-- What refuses an access to sectors of a stack: the ERR code (R449). -/
def State.sectorsRefused (s : State) (stack : Nat) (as : List Nat) : Option Nat :=
  if as.any fun a => decide (s.dramBytes < a + 16) then some 1
  else if s.edge.stacksOff.contains stack then some 2
  else if s.edge.stacksLost.contains stack then some 5 else none

/-! ### Sectors (R447) -/

/-- OSZIN_RD: the base die answers with data and check bytes. A pending row is cleared first (R379). -/
def execOszinRd (k : Fin 12) (x : OFlit) (s : State) : Out1 := s.oszinTake k.val x 1 fun s =>
  let as := oszinSectors k.val x
  match s.sectorsRefused k.val as with
  | some c => s.oszinFail k.val x c
  | none =>
    let s := as.foldl (fun s a => s.settle a 16) s
    s.oszinOut k.val x 33 (as.flatMap fun a => s.memory.bytes.slice 0 a 16 ++ s.checkBytes (a / 16)) []

/-- OSZIN_WR: whole sectors with their check bytes. -/
def execOszinWr (k : Fin 12) (x : OFlit) (s : State) : Out1 := s.oszinTake k.val x 2 fun s =>
  let as := oszinSectors k.val x
  match s.sectorsRefused k.val as with
  | some c => s.oszinFail k.val x c
  | none =>
    let s := as.zipIdx.foldl (fun (s : State) (a : Nat × Nat) =>
      s.putSector a.1 (padTo 16 (x.slots.drop (20 * a.2))) (padTo 4 (x.slots.drop (20 * a.2 + 16)))) s
    s.oszinOut k.val x 34 [] []

/-- Data with these check bytes are what the stack holds in the sector at `a`, or cannot be read (R402). -/
def State.holds (s : State) (a : Nat) (data check : List Byte) : Bool :=
  match checkSector (a / 16) data (check.map BitVec.toNat) with
  | .bad => true
  | .clean => data == s.bytesAt a 16
  | .corrected d => d == s.bytesAt a 16

/-- OSZIN_RDR: data of a line that L2 does not hold arrive with their check bytes; the home slice holds them as they came (R401). Data from
before a swap of the row bring no line back (R174). -/
def execOszinRdr (k : Fin 12) (x : OFlit) (s : State) : Out1 := s.oszinTake k.val x 33 fun s =>
  (oszinSectors k.val x).zipIdx.foldl (fun (s : State) (a : Nat × Nat) =>
    let data := padTo 16 (x.slots.drop (20 * a.2))
    let check := padTo 4 (x.slots.drop (20 * a.2 + 16))
    let held := s.memory.lines.contains (a.1 / 128) || s.pendingAt a.1
    if s.dramBytes < a.1 + 16 || (!held && !s.holds a.1 data check) then s
    else
      let s := if held then s else s.putSector a.1 data check
      s.setMemory (s.memory.touch a.1 16)) s

/-- OSZIN_ACK: the sectors written back are no longer dirty. -/
def execOszinAck (k : Fin 12) (x : OFlit) (s : State) : Out1 := s.oszinTake k.val x 34 fun s =>
  let ks := (oszinSectors k.val x).map (· / 16)
  s.setMemory { s.memory with dirty := s.memory.dirty.filter fun d => !ks.contains d }

/-! ### Command groups over the link (R167 to R170) -/

def State.linkGroup (s : State) (stack tag : Nat) : Option Group :=
  (s.edge.groups.find? fun g => g.1 == stack && g.2.1 == tag).map (·.2.2)

/-- Replaces or removes the group of a stack and tag. -/
def State.setLinkGroup (s : State) (stack tag : Nat) (g : Option Group) : State :=
  let rest := s.edge.groups.filter fun x => !(x.1 == stack && x.2.1 == tag)
  s.setEdge { s.edge with groups := match g with | some g => rest ++ [(stack, tag, g)] | none => rest }

/-- The row operations of a GROW: eight bytes each in the slots, their number in byte 0 of the field: destination row, bank and
channel, source row, bank and channel; a source channel of 255 makes a ZERO (log 14). -/
def growOps (stack : Nat) (x : OFlit) : List RowOp :=
  (List.range (min 5 (x.field.headD 0).toNat)).map fun i =>
    let num (o n : Nat) : Nat := natOfBytes ((x.slots.drop (8 * i + o)).take n)
    let key (o : Nat) : Nat := rowKey (16 * stack + num (o + 3) 1 % 64 / 4) (num (o + 3) 1 % 4) (num (o + 2) 1 % 32) (num o 2)
    ⟨key 0, if num 7 1 = 255 then none else some (key 4)⟩

/-- GOPEN: at most one group of a tag is open (R167). A disabled stack answers with code 2, and a lost one with code 5 (R449). -/
def execGopen (k : Fin 12) (x : OFlit) (s : State) : Out1 := s.oszinTake k.val x 8 fun s =>
  if s.edge.stacksOff.contains k.val then s.oszinFail k.val x 2
  else if s.edge.stacksLost.contains k.val then s.oszinFail k.val x 5
  else if (s.linkGroup k.val x.tag.toNat).isSome then s.oszinFail k.val x 6
  else (s.setLinkGroup k.val x.tag.toNat (some ⟨k.val, [], false, none, []⟩)).oszinOut k.val x 34 [] []

/-- GROW (R168): operations are added. An aborted group answers with code 3, and so does one whose sequencer is in a watchdog reset (R449). -/
def execGrow (k : Fin 12) (x : OFlit) (s : State) : Out1 := s.oszinTake k.val x 9 fun s => s.unlessLost k.val x fun s =>
  match s.linkGroup k.val x.tag.toNat with
  | none => s.oszinFail k.val x 6
  | some g =>
    let ops := growOps k.val x
    let out : Group := { g with ops := ops }
    if g.aborted then s.oszinFail k.val x 3
    else if s.groupDown out then
      (s.setLinkGroup k.val x.tag.toNat (some { g with aborted := true })).oszinFail k.val x 3
    else if 64 < g.ops.length + ops.length then s.oszinFail k.val x 6
    else if ops.any fun o => decide (s.bankRows ≤ rowNum o.dst) || (o.src.any fun c => decide (s.bankRows ≤ rowNum c)) then s.oszinFail k.val x 1
    else (s.setLinkGroup k.val x.tag.toNat (some { g with ops := g.ops ++ ops })).oszinOut k.val x 34 [] []

/-- GCMT (R170): the group's rows are written in order and swapped in, and GDONE carries the mask. -/
def execGcmt (k : Fin 12) (x : OFlit) (s : State) : Out1 := s.oszinTake k.val x 10 fun s => s.unlessLost k.val x fun s =>
  match s.linkGroup k.val x.tag.toNat with
  | none => s.oszinFail k.val x 6
  | some g =>
    let closed := s.setLinkGroup k.val x.tag.toNat none
    if g.aborted then closed.oszinFail k.val x 3
    else if !s.groupRoom g.ops then s.oszinFail k.val x 6
    else if s.groupBad g.ops then closed.oszinFail k.val x 5
    else
      let mask := maskOf (((g.ops.zipIdx).filter fun o => s.buffered o.1).map (·.2))
      (closed.commit g.ops).oszinOut k.val x 40 [] (bytesOfNat 8 mask)

/-- GABT (R170): the group is discarded, and no row changes. -/
def execGabt (k : Fin 12) (x : OFlit) (s : State) : Out1 := s.oszinTake k.val x 11 fun s => s.unlessLost k.val x fun s =>
  (s.setLinkGroup k.val x.tag.toNat none).oszinOut k.val x 34 [] []

/-- GDONE: the hub's record of the group closes (R170). -/
def execGdone (k : Fin 12) (x : OFlit) (s : State) : Out1 := s.oszinTake k.val x 40 fun s => s.setLinkGroup k.val x.tag.toNat none

/-! ### Slot tables (R374, R375, R377, R449) -/

/-- Entry bytes of a table without reserved bits: a base-die table [6:4], a channel table [6:2]. -/
def slotsOk (channel : Bool) (bs : List Byte) : Bool :=
  bs.all fun b => if channel then field b.toNat 2 5 == 0 else field b.toNat 4 3 == 0

/-- SLOT: half a table; with its partner of the same sequence the table takes effect whole at the next wrap. A half that waits at the link is
gone with the next SLOT there. Entries 0 to 15 of a
half lie in the data of slot 0 and 16 to 31 in the data of slot 1 (log 14). -/
def execSlot (k : Fin 12) (x : OFlit) (s : State) : Out1 := s.oszinTake k.val x 16 fun s => s.unlessLost k.val x fun s =>
  let bs := padTo 16 x.slots ++ padTo 16 (x.slots.drop 20)
  let half := (x.field.headD 0).toNat % 2
  let channel := (x.field.headD 0).getLsbD 1
  let seq := natOfBytes ((x.field.drop 1).take 4)
  let base := if channel then 4096 + 64 * (64 * k.val + x.ch.toNat) else 64 * k.val
  let key := base * 2 ^ 32 + seq
  let mine := s.edge.slotHalf.find? fun y => y.1 == k.val
  let s := s.setEdge { s.edge with slotHalf := s.edge.slotHalf.filter fun y => y.1 != k.val }
  if !slotsOk channel bs then s.oszinFail k.val x 4
  else
    let s := s.oszinOut k.val x 34 [] []
    let hold : State := s.setEdge { s.edge with slotHalf := s.edge.slotHalf ++ [(k.val, key, half, bs)] }
    match mine with
    | some (_, key', half', bs') =>
      if key' = key && half' != half then
        let whole := if half = 0 then bs ++ bs' else bs' ++ bs
        s.setEdge { s.edge with slotTab := s.edge.slotTab.splice 128#8 base whole }
      else hold
    | none => hold

/-! ### Identity and repair (R448) -/

/-- An entry of the repair block. -/
def repairEntry (r : Nat × Nat × Nat × Nat × Nat × Nat) : Nat :=
  match r with
  | (_, ch, bank, row, ssa, spi) =>
    2 ^ 63 + spi % 16 * 2 ^ 30 + ssa % 32 * 2 ^ 25 + row % 16384 * 2048 + bank % 32 * 64 + ch % 64

/-- The repair block of a stack: the number of entries, then the entries. -/
def State.repairBlock (s : State) (k : Nat) : List Byte :=
  let es := s.edge.repair.filter fun r => r.1 == k
  bytesOfNat 32 es.length ++ es.flatMap fun r => bytesOfNat 8 (repairEntry r)

/-- The identity block of a stack: its last 24 bytes are reserved and read as 0 (R6, R448). -/
def State.identBlock (s : State) (k : Nat) : List Byte := s.edge.ident.slice 0 (64 * k) 40 ++ List.replicate 24 0

/-- IDRD: 32 bytes of the identity block, the half that SN names (R448). -/
def execIdrd (k : Fin 12) (x : OFlit) (s : State) : Out1 := s.oszinTake k.val x 17 fun s => s.unlessLost k.val x fun s =>
  s.oszinOut k.val x 49 (padTo 32 ((s.identBlock k.val).drop (32 * x.sn.toNat))) [0]
/-- REPRD: 32 bytes of the repair block, the piece that SN names (R448). -/
def execReprd (k : Fin 12) (x : OFlit) (s : State) : Out1 := s.oszinTake k.val x 18 fun s => s.unlessLost k.val x fun s =>
  s.oszinOut k.val x 49 (padTo 32 ((s.repairBlock k.val).drop (32 * x.sn.toNat))) [1]

/-- Capacity in bytes and rows per bank of a stack of a height (R1, R11). -/
def heightRows (h : Nat) : Nat := 8192 / 8 * h
def heightBytes (h : Nat) : Nat := h * 4294967296

/-- The height of the stacks that the package holds (R1, R11). -/
def State.height (s : State) : Nat := s.dramGiB / 48

/-- The fixed fields of an identity block agree with R448 and with the fused height. -/
def identOk (h : Nat) (b : List Byte) : Bool :=
  let num (o n : Nat) : Nat := natOfBytes ((b.drop o).take n)
  num 2 2 == 256 && num 4 1 == h && num 5 1 == 64 && num 6 1 == 32 && num 7 1 == 16 && num 8 4 == heightRows h && num 12 2 == 512 &&
    decide (1 ≤ num 14 2) && decide (num 14 2 ≤ 16) && num 16 8 == heightBytes h

/-- A stack that differs disables itself with its pair, and STK shows it (R438, R448). -/
def State.checkStack (s : State) (k : Nat) : State :=
  if identOk s.height (s.identBlock k) then s
  else s.setEdge { s.edge with
    stacksOff := insertNat (insertNat s.edge.stacksOff (k / 2 * 2)) (k / 2 * 2 + 1)
    pfStatus := s.edge.pfStatus ||| wOf (2 ^ (32 + k / 2)) }

/-- BLK: 32 bytes of an identity block without its reserved bytes, whose half SN names, or of a repair block; a stack whose identity differs is
disabled. -/
def execBlk (k : Fin 12) (x : OFlit) (s : State) : Out1 := s.oszinTake k.val x 49 fun s =>
  if x.field.headD 0 = 0 && decide (x.sn.toNat < 2) then
    let half := padTo 32 (if x.sn = 0 then x.slots else x.slots.take 8)
    let s := s.setEdge { s.edge with ident := s.edge.ident.splice 0 (64 * k.val + 32 * x.sn.toNat) half }
    s.checkStack k.val
  else s

/-! ### Resets and clearing (R379, R383) -/

def stackEngine (k : Fin 12) (e : Fin 16) : CoreId := 256 + 16 * k.val + e.val

/-- RSTE: the base die resets an engine and reports (R383). -/
def execRste (k : Fin 12) (e : Fin 16) (s : State) : Out1 :=
  .next (((s.resetUnit (stackEngine k e)).pushOnce (.wdog k e)).pushOnce (.rstd k e))
/-- WDOG: the hub learns that an engine hung and that its reset has begun (R383). -/
def execWdog (k : Fin 12) (e : Fin 16) (s : State) : Out1 := .next (s.resetUnit (stackEngine k e))
/-- RSTD: the engine rejoins (R383). -/
def execRstd (k : Fin 12) (e : Fin 16) (s : State) : Out1 :=
  .next (s.setEdge { s.edge with inReset := s.edge.inReset.filter (· != stackEngine k e) })

/-- CLRS: the clear-pending bits of a partition's rows in the stack are set (R379). -/
def execClrs (k : Fin 12) (x : OFlit) (s : State) : Out1 := s.oszinTake k.val x 21 fun s => s.unlessLost k.val x fun s =>
  let rows := ((slicesOf (s.part x.part.toNat).slc).filter fun i => i / 16 == k.val).flatMap s.sliceRows
  let s := s.setMemory { s.memory with clrRows := addRows s.memory.clrRows rows }
  (s.pushOnce (.clearingEngineRow k)).oszinOut k.val x 34 [] []

/-- CLRD: no pending row of the stack remains; root firmware has the clear-done record (R379). -/
def execClrd (k : Fin 12) (p : PartId) (s : State) : Out1 := .next (s.deviceRecord true p.val 8 k.val)

/-! ### Requests of stack engines (R286, R447) -/

/-- Payload and address of an ESREQ: the slots and bytes 0 to 6 of the field, the sectors less one in byte 7, the byte address
in bytes 8 to 15 (log 14). -/
def esPayload (x : OFlit) : List Byte := padTo 40 x.slots ++ x.field.take 7
def esAddr (x : OFlit) : Nat := natOfBytes ((x.field.drop 8).take 8)
def esCount (x : OFlit) : Nat := (x.field.getD 7 0).toNat % 8 + 1

/-- An ESREQ, checked against the partition it names (R447). One of an engine in a watchdog reset is answered with code 3; CH is a channel
of the engine's own (R449; log 14). -/
def State.esServe (s : State) (k : Nat) (x : OFlit) (kind most : Nat) (f : State → State) : Out1 :=
  s.oszinTake k x (56 + kind) fun s =>
    if s.edge.inReset.contains (256 + 16 * k + x.ch.toNat / 4) then s.oszinFail k x 3
    else if most < esCount x || esAddr x % 16 != 0 then s.oszinFail k x 6 else f s

def State.esRequest (s : State) (k : Nat) (x : OFlit) (kind most : Nat) : Out1 := s.esServe k x kind most fun s =>
  let p := x.part.toNat
  s.serve (.oszin k x) (if (s.part p).enabled then some p else none) kind (esAddr x) (esCount x) (esPayload x)

/-- ESREQ_RD: up to three sectors fit its answer (R447). -/
def execEsreqRd (k : Fin 12) (x : OFlit) (s : State) : Out1 := s.esRequest k.val x 1 3
/-- ESREQ_WR: one sector piece fits. -/
def execEsreqWr (k : Fin 12) (x : OFlit) (s : State) : Out1 := s.esRequest k.val x 2 1
/-- ESREQ_ATOM. -/
def execEsreqAtom (k : Fin 12) (x : OFlit) (s : State) : Out1 := s.esRequest k.val x 3 1
/-- ESREQ_BAR. -/
def execEsreqBar (k : Fin 12) (x : OFlit) (s : State) : Out1 := s.esRequest k.val x 4 8
/-- ESREQ_REDP: a stack engine's partial of one or two sectors of a window's dest, which its partition owns, reaches the home slice and is
held for the communication step (R130, R446, R447; log 14). -/
def execEsreqRedp (k : Fin 12) (x : OFlit) (s : State) : Out1 := s.esServe k.val x 5 2 fun s =>
  let p := x.part.toNat
  if s.ownsSectors p (esAddr x) (esCount x) then s.bring ⟨.ofEngine, p, esAddr x, .f32, 0, padTo (16 * esCount x) x.slots⟩
  else s.answerTo (.oszin k x) 62 refusedCode

/-- ESCMD: queued work, answered by ESANS with its scalar result, or with its fault class in byte 8, once it has
retired (R447; log 14). -/
def execEscmd (k : Fin 12) (x : QueuedWork) (s : State) : Out1 :=
  let y : OFlit := ⟨24, 0, x.tag, 0, 0, 0, [], []⟩
  match s.queueWork (256 + 16 * k.val + x.engine % 16) x with
  | .inl cls => .next (s.oszinOut k.val y 24 (List.replicate 8 0 ++ [BitVec.ofNat 8 cls]) [62])
  | .inr (none, t) => .next (t.push (.escmd k x))
  | .inr (some v, t) => .next (t.oszinOut k.val y 24 (bytesOfNat 8 v.toNat) [35])

/-- ESANS: the answer reaches the engine of the stack whose request carries the tag (R447). -/
def execEsans (k : Fin 12) (x : OFlit) (s : State) : Out1 := s.oszinTake k.val x 24 fun s =>
  match s.edge.asks.find? fun a => a.core / 16 == 16 + k.val && a.flit.tag == x.tag && a.answer.isNone with
  | none => s
  | some a => s.setEdge { s.edge with asks := s.edge.asks.map fun b =>
      if b = a then { b with answer := some ((x.field.headD 0).toNat, padTo 40 x.slots ++ x.field.drop 1) } else b }

/-! ### Errors and lost links (R449) -/

/-- The class with which a request ends for an ERR code (R449). -/
def oszinClass (code : Nat) : Cls :=
  match code with
  | 1 | 2 => .access
  | 3 => .unitReset
  | _ => .storage

/-- What an ERR whose tag names no request of a link may concern: a task with a group open on the stack, or an access of an engine. The model
makes these in one step, without tags (log 14). -/
def State.errTargets (s : State) (k : Nat) : List (TaskId ⊕ CoreId × Eng) :=
  let groups := s.sched.tasks.filterMap fun x => match x.2.group with | some g => if g.stack = k then some (.inl x.1) else none | none => none
  groups ++ s.cores.flatMap fun c => (Eng.all.filter fun e => s.atInstruction c.1 e).map fun e => .inr (c.1, e)

/-- The request that such an ERR ends is free; it may be none, but for codes 3 and 5 where a group is open on the stack (R449; log 2). -/
def State.errElsewhere (s : State) (k code : Nat) : State :=
  let ts := s.errTargets k
  let some_ := (code == 3 || code == 5) && ts.any Sum.isLeft
  match ts[s.choose 20480 (if some_ then ts.length else ts.length + 1)]? with
  | some (.inl t) =>
    (match s.task t with
     | some x => s.setTask t { x with group := x.group.map fun (g : Group) => { g with aborted := true } }
     | none => s)
  | some (.inr (c, e)) => s.failAccess c e (some k) (oszinClass code).code
  | none => s

/-- OSZIN_ERR: a group aborts; the request of an engine ends with the class of the code; codes 4 and 6 also send root firmware a record
(R449). -/
def execOszinErr (k : Fin 12) (x : OFlit) (s : State) : Out1 := s.oszinTake k.val x 63 fun s =>
  let code := (x.field.headD 0).toNat
  let s := match s.linkGroup k.val x.tag.toNat with
    | some g => s.setLinkGroup k.val x.tag.toNat (some { g with aborted := true })
    | none =>
      match s.edge.asks.find? fun a => a.core / 16 == 16 + k.val && a.flit.tag == x.tag && a.answer.isNone with
      | some a => s.takeFault a.core a.eng (mkTrap (oszinClass code))
      | none => if code = 4 then s else s.errElsewhere k.val code
  if code = 4 || code = 6 then s.deviceRecord true 0 10 code else s

/-- OSZIN_MALFORMED_FLIT is answered with ERR code 6 (R447). -/
def execOszinMalformedFlit (k : Fin 12) (x : OFlit) (s : State) : Out1 := .next (s.oszinFail k.val x 6)

/-- OSZIN_LINK_LOST: the stack is lost; its groups abort, its engines' tasks stop with unit-reset faults, and root firmware has a
record (R449). -/
def execOszinLinkLost (k : Fin 12) (s : State) : Out1 :=
  let s := s.setEdge { s.edge with
    stacksLost := insertNat s.edge.stacksLost k.val
    groups := s.edge.groups.map fun g => if g.1 = k.val then (g.1, g.2.1, { g.2.2 with aborted := true }) else g }
  let s := { s with sched := { s.sched with tasks := s.sched.tasks.map fun (t : Nat × Task) =>
    (t.1, { t.2 with group := t.2.group.map fun (g : Group) => { g with aborted := g.aborted || g.stack == k.val } }) } }
  let s := (List.range 16).foldl (fun (s : State) e =>
    let c := 256 + 16 * k.val + e
    if (s.core c).owner.isSome then (s.unarrive c).takeFault c (s.core c).firstRunning (mkTrap .unitReset) else s) s
  .next (s.deviceRecord true 0 11 k.val)

end Sys2Proof.Machine
end

