-- ==== Sys2Proof/Machine/Flash.lean ====
section
/-! DEFINITION. The flash tier links (R380, R450 to R452): reads and writes of the tier, requests and queued work of flash engines, the
die control registers, and a die that is lost. -/

namespace Sys2Proof.Machine

/-- The die of a byte offset of the flash tier (R451). -/
def dieOf (ofs : Nat) : Nat := ofs / 1048576 % 4

/-- Some block of the die's share of the flash tier has its clear-pending bit set (R380, R452). -/
def State.clearPending (s : State) (d : Nat) : Bool :=
  s.memory.clrBlocks.any fun x => decide (x.1 + (d + 4 - x.1 % 4) % 4 < x.2)

/-- The flash engines of a die that are in reset (R452). -/
def State.enginesBusy (s : State) (d : Nat) : Nat :=
  maskOf ((List.range 4).filter fun k => s.edge.inReset.contains (512 + 4 * d + k))

/-- A byte of a die's control registers as it reads: REV, RAW, SER, PLOK and CAPOK are stored, DIDX, CLRP and EBSY follow from the state,
and write-only and reserved bits read 0 (R452). -/
def State.dieByte (s : State) (d o : Nat) : Byte :=
  if o = 0 then BitVec.ofNat 8 d
  else if o = 40 then (if s.clearPending d then 1 else 0)
  else if o = 56 then BitVec.ofNat 8 (s.enginesBusy d)
  else if o = 64 then s.edge.ident.get 0 (4096 + 256 * d + o) &&& 3
  else if o = 2 || o = 3 || (decide (8 ≤ o) && decide (o < 32)) then s.edge.ident.get 0 (4096 + 256 * d + o)
  else 0

/-- The dies that bytes ofs to ofs + n - 1 touch. -/
def diesOf (ofs n : Nat) : List Nat := if n = 0 then [] else ((List.range ((ofs + n - 1) / 1048576 - ofs / 1048576 + 1)).map fun i => (ofs / 1048576 + i) % 4).dedup

/-- The dies that an access to a region touches. -/
def regionDies (r : DieRegion) (ofs n : Nat) : List Nat :=
  match r with
  | .tier => diesOf ofs n
  | .control d => [d.val]
  | .boot => [0]

/-- Bytes of a region (R451). -/
def regionSize (r : DieRegion) : Nat :=
  match r with
  | .tier => 17592186044416
  | .control _ => 65536
  | .boot => 67108864

/-- An access to a region passes its end, or needs a die that is lost (R450, R451). -/
def State.flashRefused (s : State) (r : DieRegion) (ofs n : Nat) : Bool :=
  decide (regionSize r < ofs + n) || (regionDies r ofs n).any s.edge.diesLost.contains

/-- FLASH_MEMORY_READ: the die answers with its data, or with Completer Abort where a unit is uncorrectable or the die is lost
(R450, R451); a block whose clearing is pending reads 0 (R380). -/
def execFlashMemoryRead (at_ : DieAt) (len : Nat) (s : State) : Out1 :=
  let ofs := at_.ofs
  if s.flashRefused at_.region ofs len then .next (s.emit .flashError)
  else match at_.region with
    | .tier => .next (s.emit (if s.badSector (flashBase + ofs) len then .flashError else .flashData (s.bytesAt (flashBase + ofs) len)))
    | .control d => .next (s.emit (.flashData ((List.range len).map fun i => s.dieByte d.val (ofs + i))))
    | .boot => .next (s.emit (.flashData (s.edge.boot.slice 0 ofs len)))

/-- A write of 0x020 sets the clear-pending bits of blocks BLK to BLK + CNT of the die (R380, R452). -/
def State.clearBlocks (s : State) (d : Nat) (v : Word) : State :=
  let first := wField v 0 22
  let n := wField v 40 24 + 1
  let new := (List.range n).map fun i => let b := 4 * (first + i) + d; (b, b + 1)
  s.setMemory { s.memory with clrBlocks := addRows s.memory.clrBlocks new }

/-- A write of ERST resets flash engines of the die as R383 resets a stack engine; the reset is over with the step (R452). -/
def State.resetFlash (s : State) (d : Nat) (v : Nat) : State :=
  let ks := ((List.range 4).filter fun i => v.testBit i).map fun i => 512 + 4 * d + i
  let s := ks.foldl State.resetUnit s
  s.setEdge { s.edge with inReset := s.edge.inReset.filter fun k => !ks.contains k }

/-- A write of die control registers: of those that take one, BLK with CNT, and ERST. Bytes that it leaves out count as 0 (R452). -/
def State.writeControl (s : State) (d ofs : Nat) (bytes : List Byte) : State :=
  let word (o : Nat) : Nat := natOfBytes ((List.range 8).map fun i => if ofs ≤ o + i then bytes.getD (o + i - ofs) 0 else 0)
  let touches (o : Nat) : Bool := decide (ofs < o + 8) && decide (o < ofs + bytes.length)
  let s := if touches 32 then s.clearBlocks d (wOf (word 32)) else s
  if touches 48 then s.resetFlash d (word 48 % 16) else s

/-- A write by the hub: it performs at its Successful Completion. A die that cannot accept it yet answers with Memory Request Retry
Status, and the hub sends it again. A pending block is erased first (R380, R450, R451). -/
def State.flashWrite (s : State) (r : DieRegion) (ofs : Nat) (bytes : List Byte) : State :=
  let held := (regionDies r ofs bytes.length).any fun d => !s.capOk d
  if s.flashRefused r ofs bytes.length then s.emit .flashError
  else match r, held with
    | .control d, _ => (s.writeControl d.val ofs bytes).emit .flashDone
    | _, true => (s.emit .flashRetry).push (.flashRequestRetry ⟨⟨r, ofs⟩, bytes⟩)
    | .tier, false => (s.writeBytes (flashBase + ofs) bytes).emit .flashDone
    | .boot, false => (s.setEdge { s.edge with boot := s.edge.boot.splice 0 ofs bytes }).emit .flashDone

/-- FLASH_DEFERRABLE_WRITE (R451). -/
def execFlashDeferrableWrite (at_ : DieAt) (bytes : List Byte) (s : State) : Out1 := .next (s.flashWrite at_.region at_.ofs bytes)

/-- FLASH_REQUEST_RETRY: the hub sends the write again; nothing of it has been written (R451). -/
def execFlashRequestRetry (w : DieWrite) (s : State) : Out1 := .next (s.flashWrite w.place.region w.place.ofs w.bytes)

/-- The partition that owns a flash engine (R361, R451). -/
def State.partOfFlash (s : State) (e : Nat) : Option Nat := (s.parts.find? fun x => s.ownsUnit x.1 (512 + e)).map (·.1)

/-- FLASH_ENGINE_REQUEST: a request of kind RD, WR, ATOM, BAR or PLCD, with DST and SRC of this module, is served and answered
(R451); any other is dropped with a record. -/
def execFlashEngineRequest (x : FlashMsg) (s : State) : Out1 :=
  let f := x.flit
  let k := f.kind.toNat
  let n := f.nsec.toNat + 1
  let own := (s.rootCsr 592).toNat % 2 ^ 21
  let most := match k with | 1 => 7 | 2 => 3 | 3 => 1 | _ => 8
  if f.rsv != 0 || f.dst.toNat != own || f.src.toNat != own || !([1, 2, 3, 4, 7].contains k) || decide (most < n) || f.addr.toNat % 16 != 0
  then .next (s.dropFlit f)
  else .next (s.serve (.flash x) (s.partOfFlash x.engine.val) k f.addr.toNat n f.payload)

/-- FLASH_ENGINE_ANSWER: the answer reaches the request of the engine's function that carries its tag (R451). -/
def execFlashEngineAnswer (x : FlashMsg) (s : State) : Out1 :=
  match s.edge.asks.find? fun a => a.core == 512 + x.engine.val && a.flit.tag == x.flit.tag && a.answer.isNone with
  | none => .next s
  | some a => .next (s.setEdge { s.edge with asks := s.edge.asks.map fun b =>
      if b = a then { b with answer := some (x.flit.kind.toNat, x.flit.payload) } else b })

/-- FLASH_QUEUE_WORK: link kind 0x40, answered with link kind 0x41: the scalar result, and the fault class in byte 8 (R451; log 14). -/
def execFlashQueueWork (x : QueuedWork) (s : State) : Out1 :=
  let e := x.engine % 16
  match s.queueWork (512 + e) x with
  | .inl cls => .next (s.emit (.flash e 65 x.tag (List.replicate 8 0 ++ [BitVec.ofNat 8 cls])))
  | .inr (none, t) => .next (t.push (.flashQueueWork x))
  | .inr (some v, t) => .next (t.emit (.flash e 65 x.tag (bytesOfNat 8 v.toNat ++ [0])))

/-- FLASH_QUEUE_WORK_ANSWER: link kind 0x41 reaches the request of the engine that carries its tag, as a result or as a fault of its
class (R451). -/
def execFlashQueueWorkAnswer (e : Fin 16) (tag : BitVec 12) (result : Word) (cls : BitVec 8) (s : State) : Out1 :=
  match s.edge.asks.find? fun a => a.core == 512 + e.val && a.flit.tag == tag && a.answer.isNone with
  | none => .next s
  | some a =>
    if cls = 0 then .next (s.setEdge { s.edge with asks := s.edge.asks.map fun b =>
      if b = a then { b with answer := some (65, bytesOfNat 8 result.toNat) } else b })
    else .next (s.takeFault a.core a.eng ⟨cls.toNat, 0, 0, 0, 0⟩)

/-- DIE_BLOCK_CLEAR (R380, R452). -/
def execDieBlockClear (die : Fin 4) (v : Word) (s : State) : Out1 := .next (s.clearBlocks die.val v)

/-- DIE_ENGINE_RESET (R452). -/
def execDieEngineReset (die : Fin 4) (v : BitVec 4) (s : State) : Out1 := .next (s.resetFlash die.val v.toNat)

/-- FLASH_LINK_LOST: the die is lost; its engines' tasks stop with unit-reset faults, and the promotion that reads from it ends with
status 1 (R450). -/
def execFlashLinkLost (die : Fin 4) (s : State) : Out1 :=
  let s := s.setEdge { s.edge with diesLost := insertNat s.edge.diesLost die.val }
  .next ((List.range 4).foldl (fun (s : State) i =>
    let c := 512 + 4 * die.val + i
    if (s.core c).owner.isSome then (s.unarrive c).takeFault c (s.core c).firstRunning (mkTrap .unitReset) else s) s)

end Sys2Proof.Machine
end

