-- ==== Sys2Proof/Machine/Host.lean ====
section
/-! DEFINITION. The host port: the regions of the virtual functions, with appends and refused writes at the port page, and of the physical
function with the status block and the root mailbox (R257, R258, R435 to R438). -/

namespace Sys2Proof.Machine

/-! ### MSI-X tables (R436, R438) -/

/-- Where the MSI-X table ends: 65 entries of 16 bytes at offset 0; the pending bits lie at 0x2000 (DESIGN CHOICE, log 8). -/
def msixTable : Nat := 1040
def msixPba : Nat := 8192

/-- A byte of BAR4 of a function: byte 12 of an entry holds its mask bit. -/
def State.msixByte (s : State) (vf o : Nat) : Byte :=
  if o < msixTable then
    if o % 16 = 12 then (if s.edge.msixMask.contains (128 * vf + o / 16) then 1 else 0) else s.edge.msixTab.get 0 (2048 * vf + o)
  else if msixPba ≤ o ∧ o < msixPba + 16 then
    BitVec.ofNat 8 (maskOf ((List.range 8).filter fun i => s.edge.msixPend.contains (128 * vf + 8 * (o - msixPba) + i)))
  else 0

/-- A pending vector whose mask is lifted is sent (R438). -/
def State.unmask (s : State) (vf v : Nat) : State :=
  let k := 128 * vf + v
  let s := s.setEdge { s.edge with msixMask := s.edge.msixMask.filter (· != k) }
  if s.edge.msixPend.contains k then (s.setEdge { s.edge with msixPend := s.edge.msixPend.filter (· != k) }).emit (.msix vf v) else s

/-- Writes a byte of BAR4. The pending bits are read-only, and of the bytes of an entry's control word only the mask bit is kept. -/
def State.putMsix (s : State) (vf o : Nat) (b : Byte) : State :=
  if msixTable ≤ o || decide (12 < o % 16) then s
  else if o % 16 = 12 then
    if b.getLsbD 0 then s.setEdge { s.edge with msixMask := insertNat s.edge.msixMask (128 * vf + o / 16) } else s.unmask vf (o / 16)
  else s.setEdge { s.edge with msixTab := s.edge.msixTab.put 0 (2048 * vf + o) b }

/-! ### Reads (R436 to R438) -/

/-- Bits of one host read as a device-scope access of the partition (R437). -/
def State.hostRead (s : State) (p va bits : Nat) : Except Stop (Nat × State) := do
  let a ← State.addrOk va bits
  let gss ← s.resolveAs .tile p .read [(a, bits)]
  s.readPages a bits (gss.headD [])

/-- Data of a region of a function; a read past its end is refused. -/
def State.regionRead (s : State) (vf size ofs len : Nat) (byte : Nat → Byte) : State :=
  if size < ofs + len then s.emit (.hostError vf false) else s.emit (.hostData vf ((List.range len).map fun i => byte (ofs + i)))

/-- The physical function's number in answers. -/
def pfNumber : Nat := 16

/-- A byte of BAR0 of the physical function: the status block, and zeros (R438; log 8). -/
def State.statusByte (s : State) (o : Nat) : Byte := if o < 8 then (bytesOfNat 8 s.edge.pfStatus.toNat).getD o 0 else 0

/-- A read through BAR2 completes with data, with Unsupported Request where a check fails, or with Completer Abort on an uncorrectable
sector (R437). One through a remote window waits for its answers. -/
def State.memoryRead (s : State) (vf : Fin 16) (p ofs len : Nat) : State :=
  match s.deviceRead (hostAsker vf.val) p fun s => s.hostRead p (8 * ofs) (8 * len) with
  | .ok (v, t) => t.emit (.hostData vf.val (bytesOfNat len v))
  | .error (.wait t) => t.push (.hostMemoryRead ⟨vf, .memory⟩ ofs len)
  | .error (.trap f) => (s.dropAsks (hostAsker vf.val)).emit (.hostError vf.val (f.cls == Cls.code .sectorCode))

/-- HOST_MEMORY_READ: a function that serves no enabled partition answers with Unsupported Request (R436). A read does not pass the posted
writes of its function (R437). -/
def execHostMemoryRead (w : HostWindow) (ofs len : Nat) (s : State) : Out1 :=
  let vf := w.vf
  let r := w.region
  if r = .pf then .next (s.regionRead pfNumber 65536 ofs len s.statusByte)
  else match s.partOfVf vf.val with
    | none => .next (s.emit (.hostError vf.val false))
    | some p =>
      if s.edge.posted.any fun x => x.1 == vf.val then .next (s.push (.hostMemoryRead w ofs len))
      else .next (match r with
        | .memory => s.memoryRead vf p ofs len
        | .port => s.regionRead vf.val 65536 ofs len (s.portByte p)
        | _ => s.regionRead vf.val 16384 ofs len (s.msixByte vf.val))

/-! ### Writes (R257, R258, R436 to R438) -/

/-- A host write that fails is dropped, and scheduler firmware has a kind-11 record with source code 1 (R437). -/
def State.hostDrop (s : State) (p ofs : Nat) : State :=
  s.record false p (kindRecord 11 p 0 0 1 (Config.sourceOperand 1 0 ofs) (Config.sourceOperand 1 1 ofs))

/-- A write to bytes of a port page from offset o on: a whole append reaches the launch scheduler, and any other is dropped with a
port-access record to root firmware (R257, R258). -/
def State.portWrite (s : State) (o : Nat) (ws : List (Seg × Nat)) : State :=
  match s.appendOf ws with
  | some (q, i, w) => s.appendRecord q i w
  | none => s.rootRecord 8 (if o < 4096 then o / 64 else 0) o 0

/-- A write through BAR2 (R437). -/
def State.memoryWrite (s : State) (vf : Fin 16) (p ofs : Nat) (bytes : List Byte) : Except Stop State :=
  match s.resolveAs .tile p .write [(8 * ofs, 8 * bytes.length)] with
  | .ok [gs] =>
    match (gs.map fun g => s.portPage (g.1 / 8)).findSome? id with
    | some x => .ok (s.portWrite x.2 (cutOver gs (natOfBytes bytes)))
    | none =>
      match s.asDevice (hostAsker vf.val) p fun s => (s.writeSegs gs (natOfBytes bytes)).map State.recordsWritten with
      | .error (.trap _) => .ok ((s.dropAsks (hostAsker vf.val)).hostDrop p ofs)
      | r => r
  | _ => .ok (s.hostDrop p ofs)

/-- One write to a region of a virtual function, or a wait for another module. -/
def State.hostWrite (s : State) (vf : Fin 16) (p : Nat) (r : HostRegion) (ofs : Nat) (bytes : List Byte) : Except Stop State :=
  match r with
  | .memory => s.memoryWrite vf p ofs bytes
  | .port => .ok (if 65536 < ofs + bytes.length then s.hostDrop p ofs
      else s.portWrite ofs [((8 * ((s.rootCsr (544 + p)).toNat + ofs), 8 * bytes.length), natOfBytes bytes)])
  | _ => .ok (bytes.zipIdx.foldl (fun s x => s.putMsix vf.val (ofs + x.2) x.1) s)

/-- The root mailbox: a kind-11 record with source code 2 in the root queue, which wakes the root core (R419, R438). -/
def State.mailbox (s : State) (bytes : List Byte) : State :=
  let x := natOfBytes bytes
  s.rootRecord 11 2 (Config.sourceOperand 2 0 x) (Config.sourceOperand 2 1 x)

/-- Posted writes of a function perform in the order in which they came, up to one that waits (R437): at most n. -/
def State.drainPosted (s : State) (vf : Fin 16) : Nat → State
  | 0 => s
  | n + 1 =>
    match s.edge.posted.find? fun x => x.1 == vf.val with
    | none => s
    | some x =>
      let rest := s.setEdge { s.edge with posted := s.edge.posted.erase x }
      match s.partOfVf vf.val with
      | none => rest.drainPosted vf n
      | some p =>
        match rest.hostWrite vf p x.2.1 x.2.2.1 x.2.2.2 with
        | .ok t => t.drainPosted vf n
        | .error (.wait t) => (t.setEdge { t.edge with posted := s.edge.posted }).pushOnce (.hostMemoryWrite ⟨vf, .memory⟩ 0 [])
        | .error (.trap _) => rest.drainPosted vf n

/-- HOST_MEMORY_WRITE. Posted writes of one function perform in order: while one waits for another module or a die, those after it wait too
(R437), and an event without bytes tries them again. Of the physical function, only the mailbox takes a write (R438). -/
def execHostMemoryWrite (w : HostWindow) (ofs : Nat) (bytes : List Byte) (s : State) : Out1 :=
  if w.region = .pf then .next (if 4096 ≤ ofs ∧ ofs < 8192 then s.mailbox bytes else s)
  else
    let s := if bytes.isEmpty then s else s.setEdge { s.edge with posted := s.edge.posted ++ [(w.vf.val, w.region, ofs, bytes)] }
    .next (s.drainPosted w.vf s.edge.posted.length)

/-- ROOT_MAILBOX_WRITE (R419, R438). -/
def execRootMailboxWrite (bytes : List Byte) (s : State) : Out1 := .next (s.mailbox bytes)

end Sys2Proof.Machine
end

