-- ==== Sys2Proof/Machine/Boot.lean ====
section
/-! DEFINITION. Images, measurement and attestation (R385 to R387); boot, loss of power, throttle and thermal trip (R450, R453,
R454). -/

namespace Sys2Proof.Machine

/-! ### Measurement and attestation (R386, R387) -/

/-- A measurement register: 64 zero bytes until it is first extended (R386). -/
def measured (m : List Byte) : List Byte := if m.isEmpty then List.replicate 64 0 else m

/-- M := SHA-512(M ‖ SHA-512(image) ‖ type as 8 bytes) (R386). -/
def extendMeasure (m image : List Byte) (ty : Word) : List Byte := sha512 (measured m ++ sha512 image ++ bytesOfNat 8 ty.toNat)

/-- IMAGE_MEASUREMENT: loading a scheduler firmware image extends the partition's register and its log (R386). -/
def execImageMeasurement (p : PartId) (image : List Byte) (ty : Word) (s : State) : Out1 :=
  let x := s.part p.val
  .next (s.setPart p.val { x with meas := extendMeasure x.meas image ty, log := x.log ++ [(ty.toNat, sha512 image)] })

/-- The seed of the identity key (R387). -/
def State.identitySeed (s : State) : List Byte :=
  (sha512 (bytesOfNat 32 Config.fusedSeed ++ bytesOfNat 8 s.edge.version)).take 32

/-- The 288 bytes that the key unit signs and their signature (R387). -/
def State.reportFor (s : State) (p : Nat) (nonce : List Byte) : List Byte :=
  let x := s.part p
  let body := bytesOfNat 8 1 ++ padTo 32 nonce ++ bytesOfNat 8 p ++ measured s.edge.meas ++ measured x.meas ++
    bytesOfNat 8 (s.edge.log.length + x.log.length) ++ bytesOfNat 8 s.edge.version ++ edPublic s.identitySeed
  body ++ edSign s.identitySeed body

/-- ATTESTATION_REPORT, for root firmware or for the scheduler firmware of a partition, which is given one for its own partition only
(R387). -/
def execAttestationReport (r : ReportRequest) (nonce : List Byte) (s : State) : Out1 :=
  if r.by_.all (· == r.part) then .next (s.setEdge { s.edge with report := s.reportFor r.part.val nonce }) else .next s

/-! ### Boot and power (R450, R453, R454) -/

/-- The boot ROM accepts a root image: its key is the fused one, its signature verifies, and its security version is not below the
fused minimum (R385). The signature covers the version and the image (log 9). -/
def imageAccepted (image sig key : List Byte) (version : Word) : Bool :=
  sha512 key == Config.fusedKeyDigest && edVerify key (bytesOfNat 8 version.toNat ++ image) sig && decide (Config.fusedVersion ≤ version.toNat)

/-- What outlives a loss of power: flash with its boot area, stacks and dies, defective units, fused values, and the flash blocks still to be
cleared. -/
def State.afterPower (s : State) : State :=
  let r := State.reset
  { r with
    turns := s.turns
    agenda := []
    dramGiB := s.dramGiB
    cores := assocPut ((s.cores.filter fun c => c.2.defective).map fun c => (c.1, { Core.zero with defective := true })) rootId Core.rootReset
    memory := { r.memory with
      bytes := s.memory.bytes.filter fun x => flashBase ≤ x.1
      check := s.memory.check.filter fun x => flashBase ≤ 16 * x.1
      clrBlocks := s.memory.clrBlocks
      badUnits := s.memory.badUnits }
    edge := { r.edge with
      repair := s.edge.repair, ident := s.edge.ident, boot := s.edge.boot, stacksLost := [], diesLost := [], sramErr := [], out := s.edge.out } }

/-- The boot stops after step b: the root core does not run, and READY stays 0 (R453). -/
def State.bootStops (s : State) (b cause : Nat) : State :=
  s.setEdge { s.edge with rootStopped := true, pfStatus := wOf (1 + 16 * b + cause % 65536 * 65536) }

/-- POWER_ON: boot steps 1 to 5 (R453). The image stands in the boot area of die 0, the operand naming its bytes there; accepted, it comes to
stand at byte address 0, where the root core begins (log 4). A refused image stops the boot after step 1, with its cause in RCAUSE; whether one
of steps 3 to 5 fails is free (log 2), and it stops the boot after the step before it. -/
def execPowerOn (image sig key : List Byte) (version : Word) (s : State) : Out1 :=
  let t := s.afterPower
  if s.edge.boot.slice 0 0 image.length == image && imageAccepted image sig key version then
    match s.choose 6 4 with
    | 0 =>
      let t := t.setMemory { t.memory with bytes := Sparse.splice 0 t.memory.bytes 0 image }
      let t := t.setEdge { t.edge with
        version := version.toNat
        meas := extendMeasure [] image 0
        log := [(0, sha512 image)] }
      .next ((List.range 12).foldl State.checkStack t)
    | n => .next (t.bootStops (n + 1) 0)
  else .next (t.bootStops 1 (Config.sourceOperand 12 0 version.toNat))

/-- POWER_LOSS: the module stops, its hub with it; the dies program every write they have accepted (R450, R452). -/
def execPowerLoss (s : State) : Out1 :=
  let ident := (List.range 4).foldl (fun (m : Sparse Byte) d => m.put 0 (4096 + 256 * d + 64) (m.get 0 (4096 + 256 * d + 64) ||| 2)) s.edge.ident
  .next (s.setEdge { s.edge with powered := false, pfStatus := 0, ident := ident })

/-- THERMAL_THROTTLE begins or ends: issue stalls in whole slices, and values never change (R454). -/
def execThermalThrottle (on : Bool) (s : State) : Out1 := .next (s.setEdge { s.edge with throttle := on })

/-- THERMAL_TRIP: the module stops, every launch ends without records, and THERM is set (R454). -/
def execThermalTrip (s : State) : Out1 :=
  let ids := (s.sched.launches.filter fun l => l.1 < 1024).map (·.1)
  let s := { s with
    cores := s.cores.map fun (c : Nat × Core) =>
      match c.2.owner with
      | some t => if t / 256 < 1024 then (c.1, { c.2 with owner := none }) else c
      | none => c
    sched := { s.sched with
      launches := s.sched.launches.filter fun l => 1024 ≤ l.1
      tasks := s.sched.tasks.filter fun t => !ids.contains t.2.launch } }
  .next (s.setEdge { s.edge with powered := false, pfStatus := s.edge.pfStatus ||| 8#64 })

end Sys2Proof.Machine
end

