-- ==== Sys2Proof/Machine/Scalar.lean ====
section
/-! DEFINITION. X instructions on the scalar copy of one engine: arithmetic, logic, constants and bit pointers (R71 to R76). -/

namespace Sys2Proof.Machine

/-- The condition cc on two values (R71). -/
def Cond.holds (cc : Cond) (a b : Word) : Bool :=
  match cc with
  | .eq => a == b
  | .ne => a != b
  | .lt => a.slt b
  | .ge => !a.slt b
  | .ltu => a.ult b
  | .geu => !a.ult b
  | .tst => a &&& b != 0

/-- Element width of a width code (R74). -/
def WCode.bits : WCode → Nat
  | .w1 => 1 | .w3 => 3 | .w4 => 4 | .w6 => 6 | .w8 => 8 | .w16 => 16 | .w32 => 32 | .w64 => 64

/-- A(w) of R74. -/
def WCode.align (w : WCode) : Nat := match w with | .w3 | .w6 => 32 | x => WCode.bits x

/-- Quotient of R71: rounded toward zero; all ones for a divisor of 0. -/
def quotS (a b : Word) : Word := if b = 0 then wOfInt (-1) else wOfInt (a.toInt.tdiv b.toInt)
def quotU (a b : Word) : Word := if b = 0 then wOfInt (-1) else a / b
/-- Remainder of R71: a for a divisor of 0. -/
def remS (a b : Word) : Word := if b = 0 then a else wOfInt (a.toInt.tmod b.toInt)
def remU (a b : Word) : Word := if b = 0 then a else a % b

/-- The carry-less product (R71). -/
def clmulW (a b : Word) : Nat := clmulNat 64 a.toNat b.toNat

/-- imm8 sign-extended (R72). -/
def sImm8 (i : BitVec 8) : Word := i.signExtend 64

/-- An XR instruction that writes s[d] from s[a] and s[b]. -/
def State.binX (s : State) (d a b : Reg) (f : Word → Word → Word) : Out1 := .next (s.finishX 1 d (f (s.rd a) (s.rd b)))
/-- An X short instruction that writes s[d] from s[a]. -/
def State.unX (s : State) (d a : Reg) (f : Word → Word) : Out1 := .next (s.finishX 1 d (f (s.rd a)))

/-- The check word of R76. -/
def checkWord (wc : WCode) (a b : Word) : Word :=
  let w := WCode.bits wc
  let aligned := b.toNat % WCode.align wc == 0 && (a - b).toInt % w == 0
  let last := a.toNat + w - 1
  wOf ((if aligned then 1 else 0) + (if a.toNat / 128 ≠ last / 128 then 2 else 0) +
    (if a.toNat / 524288 ≠ last / 524288 then 4 else 0) + (if 2 ^ 58 ≤ a.toNat then 8 else 0))

/-- ADD: s[d] := a + b mod 2^64 (R71). -/
def execAdd (d a b : Reg) (s : State) : Out1 := s.binX d a b fun x y => x + y
/-- SUB: s[d] := a - b mod 2^64 (R71). -/
def execSub (d a b : Reg) (s : State) : Out1 := s.binX d a b fun x y => x - y
/-- MUL: s[d] := a × b mod 2^64 (R71). -/
def execMul (d a b : Reg) (s : State) : Out1 := s.binX d a b fun x y => x * y
/-- MULH: s[d] := the high half of the signed product (R71). -/
def execMulh (d a b : Reg) (s : State) : Out1 := s.binX d a b fun x y => wOfInt (x.toInt * y.toInt / 18446744073709551616)
/-- MULHU: s[d] := the high half of the unsigned product (R71). -/
def execMulhU (d a b : Reg) (s : State) : Out1 := s.binX d a b fun x y => wOf (x.toNat * y.toNat / 18446744073709551616)
/-- DIV: s[d] := the signed quotient (R71). -/
def execDiv (d a b : Reg) (s : State) : Out1 := s.binX d a b fun x y => quotS x y
/-- DIVU: s[d] := the unsigned quotient (R71). -/
def execDivU (d a b : Reg) (s : State) : Out1 := s.binX d a b fun x y => quotU x y
/-- REM: s[d] := the signed remainder (R71). -/
def execRem (d a b : Reg) (s : State) : Out1 := s.binX d a b fun x y => remS x y
/-- REMU: s[d] := the unsigned remainder (R71). -/
def execRemU (d a b : Reg) (s : State) : Out1 := s.binX d a b fun x y => remU x y
/-- AND: s[d] := a AND b (R71). -/
def execAnd (d a b : Reg) (s : State) : Out1 := s.binX d a b fun x y => x &&& y
/-- OR: s[d] := a OR b (R71). -/
def execOr (d a b : Reg) (s : State) : Out1 := s.binX d a b fun x y => x ||| y
/-- XOR: s[d] := a XOR b (R71). -/
def execXor (d a b : Reg) (s : State) : Out1 := s.binX d a b fun x y => x ^^^ y
/-- ANDN: s[d] := a AND NOT b (R71). -/
def execAndn (d a b : Reg) (s : State) : Out1 := s.binX d a b fun x y => x &&& ~~~y
/-- SHL: s[d] := a shifted left by b[5:0] (R71). -/
def execShl (d a b : Reg) (s : State) : Out1 := s.binX d a b fun x y => x <<< (y.toNat % 64)
/-- SHR: s[d] := a shifted right by b[5:0], zeros in (R71). -/
def execShr (d a b : Reg) (s : State) : Out1 := s.binX d a b fun x y => x >>> (y.toNat % 64)
/-- SHRA: s[d] := a shifted right by b[5:0], copies of bit 63 in (R71). -/
def execShra (d a b : Reg) (s : State) : Out1 := s.binX d a b fun x y => x.sshiftRight (y.toNat % 64)
/-- ROT: s[d] := a rotated right by b[5:0] (R71). -/
def execRot (d a b : Reg) (s : State) : Out1 := s.binX d a b fun x y => x.rotateRight (y.toNat % 64)
/-- MIN: s[d] := the lesser, signed (R71). -/
def execMin (d a b : Reg) (s : State) : Out1 := s.binX d a b fun x y => if y.slt x then y else x
/-- MINU: s[d] := the lesser, unsigned (R71). -/
def execMinU (d a b : Reg) (s : State) : Out1 := s.binX d a b fun x y => if y.ult x then y else x
/-- MAX: s[d] := the greater, signed (R71). -/
def execMax (d a b : Reg) (s : State) : Out1 := s.binX d a b fun x y => if x.slt y then y else x
/-- MAXU: s[d] := the greater, unsigned (R71). -/
def execMaxU (d a b : Reg) (s : State) : Out1 := s.binX d a b fun x y => if x.ult y then y else x
/-- CLZ: s[d] := leading zeros of a (R71). -/
def execClz (d a : Reg) (s : State) : Out1 := s.unX d a fun x => wOf (leading 64 x.toNat)
/-- CTZ: s[d] := trailing zeros of a (R71). -/
def execCtz (d a : Reg) (s : State) : Out1 := s.unX d a fun x => wOf (trailing 64 x.toNat)
/-- POPC: s[d] := number of 1 bits of a (R71). -/
def execPopc (d a : Reg) (s : State) : Out1 := s.unX d a fun x => wOf (ones 64 x.toNat)
/-- BREV: s[d] := bits in reverse order of a (R71). -/
def execBrev (d a : Reg) (s : State) : Out1 := s.unX d a fun x => wOf (reversed 64 x.toNat)
/-- SEXT: bits [n:0] of a with bit n copied above; the field n is the width less one (R72). -/
def execSext (d a : Reg) (n : Fin 64) (s : State) : Out1 := s.unX d a fun x => wOfInt (signed (n.val + 1) x.toNat)
/-- ZEXT: bits [n:0] of a, zeros above (R72). -/
def execZext (d a : Reg) (n : Fin 64) (s : State) : Out1 := s.unX d a fun x => wOf (x.toNat % 2 ^ (n.val + 1))
/-- CMP: 1 if the condition holds, else 0 (R71). -/
def execCmp (cc : Cond) (d a b : Reg) (s : State) : Out1 := s.binX d a b fun x y => if Cond.holds cc x y then 1 else 0
/-- SEL: a if the old s[d] is not 0, else b (R71). -/
def execSel (d a b : Reg) (s : State) : Out1 := s.binX d a b fun x y => if s.rd d != 0 then x else y
/-- CLMUL: bits [63:0] of the carry-less product (R71). -/
def execClmul (d a b : Reg) (s : State) : Out1 := s.binX d a b fun x y => wOf (clmulW x y)
/-- CLMUL.hi: bits [127:64] of the carry-less product (R71). -/
def execClmulHi (d a b : Reg) (s : State) : Out1 := s.binX d a b fun x y => wOf (clmulW x y / 18446744073709551616)
/-- ADDI: a + i mod 2^64 (R72). -/
def execAddi (d a : Reg) (i : BitVec 8) (s : State) : Out1 := s.unX d a fun x => x + sImm8 i
/-- ANDI: a AND i sign-extended (R72). -/
def execAndi (d a : Reg) (i : BitVec 8) (s : State) : Out1 := s.unX d a fun x => x &&& sImm8 i
/-- ORI: a OR i sign-extended (R72). -/
def execOri (d a : Reg) (i : BitVec 8) (s : State) : Out1 := s.unX d a fun x => x ||| sImm8 i
/-- XORI: a XOR i sign-extended (R72). -/
def execXori (d a : Reg) (i : BitVec 8) (s : State) : Out1 := s.unX d a fun x => x ^^^ sImm8 i
/-- SHLI: a shifted left by n (R72). -/
def execShli (d a : Reg) (n : Fin 64) (s : State) : Out1 := s.unX d a fun x => x <<< n.val
/-- SHRI: a shifted right by n, zeros in (R72). -/
def execShri (d a : Reg) (n : Fin 64) (s : State) : Out1 := s.unX d a fun x => x >>> n.val
/-- SHRAI: a shifted right by n, copies of bit 63 in (R72). -/
def execShrai (d a : Reg) (n : Fin 64) (s : State) : Out1 := s.unX d a fun x => x.sshiftRight n.val
/-- PADD: a + signed b × w (R75). -/
def execPadd (wc : WCode) (d a b : Reg) (s : State) : Out1 := s.binX d a b fun x y => wOfInt (x.toNat + y.toInt * WCode.bits wc)
/-- PDIFF: the signed difference divided by w, rounded down (R75). -/
def execPdiff (wc : WCode) (d a b : Reg) (s : State) : Out1 := s.binX d a b fun x y => wOfInt ((x - y).toInt.fdiv (WCode.bits wc))
/-- PALN: a with bits [n-1:0] cleared (R75). -/
def execPaln (d a : Reg) (n : Fin 64) (s : State) : Out1 := s.unX d a fun x => wOf (x.toNat / 2 ^ n.val * 2 ^ n.val)
/-- PALN.up: a rounded up to a multiple of 2^n, mod 2^64 (R75). -/
def execPalnUp (d a : Reg) (n : Fin 64) (s : State) : Out1 :=
  s.unX d a fun x => wOf ((x.toNat + 2 ^ n.val - 1) / 2 ^ n.val * 2 ^ n.val)
/-- BTOB: the byte address of a (R75). -/
def execBtob (d a : Reg) (s : State) : Out1 := s.unX d a fun x => x >>> 3
/-- BTOB.up: a / 8 rounded up (R75). -/
def execBtobUp (d a : Reg) (s : State) : Out1 := s.unX d a fun x => wOf ((x.toNat + 7) / 8)
/-- BYTE: a × 8 + b mod 8 (R75). -/
def execByte (d a b : Reg) (s : State) : Out1 := s.binX d a b fun x y => x * 8 + y % 8
/-- PCHK: the check word of R76. -/
def execPchk (wc : WCode) (d a b : Reg) (s : State) : Out1 := s.binX d a b (checkWord wc)
/-- LI: imm25 sign-extended (R73). -/
def execLi (d : Reg) (imm : BitVec 25) (s : State) : Out1 := .next (s.finishX 2 d (imm.signExtend 64))
/-- LIS: s[d] shifted left by 25, with imm25 below (R73). -/
def execLis (d : Reg) (imm : BitVec 25) (s : State) : Out1 := .next (s.finishX 2 d (s.rd d <<< 25 ||| imm.zeroExtend 64))
/-- NOP: one word passes (R85). -/
def execNop (s : State) : Out1 := .next (s.passX 1)

/-- The target of a branch at the running engine's word (R77). -/
def State.target (s : State) (imm : BitVec 25) : Word := s.me.pc.get s.eng + imm.signExtend 64 * 32

/-- An X instruction of n words that goes on at an address (R33): the pass count rises by n. -/
def State.jump (s : State) (n : Nat) (a : Word) : State :=
  let c := s.me.pass! s.eng n
  s.setMe { c with pc := c.pc.set s.eng a }

/-- BR (R78). -/
def execBr (imm : BitVec 25) (s : State) : Out1 := .next (s.jump 2 (s.target imm))
/-- BRC: taken when s[d] cc s[a] holds (R78). -/
def execBrc (cc : Cond) (d a : Reg) (imm : BitVec 25) (s : State) : Out1 :=
  .next (if Cond.holds cc (s.rd d) (s.rd a) then s.jump 2 (s.target imm) else s.passX 2)
/-- CALL: s[d] := the address after it, and always taken (R78). -/
def execCall (d : Reg) (imm : BitVec 25) (s : State) : Out1 :=
  .next ((s.wr d (s.me.pc.get s.eng + 64)).jump 2 (s.target imm))
/-- RET: goes on at s[n], or a branch-target fault where it is no multiple of 32 (R78). -/
def execRet (n : Reg) (s : State) : Out1 :=
  if (s.rd n).toNat % 32 = 0 then .next (s.jump 1 (s.rd n)) else s.trapNow .branchTarget (s.rd n)
/-- LOOP: s[d] := s[d] - 1, taken while it is not 0 (R79). -/
def execLoop (d : Reg) (imm : BitVec 25) (s : State) : Out1 :=
  let n := s.rd d - 1
  .next (if (if d.val = 0 then (0 : Word) else n) != 0 then (s.wr d n).jump 2 (s.target imm) else (s.wr d n).passX 2)

/-- The stage predicates move up by one and p8 becomes fill (R81). -/
def Core.shiftStages (c : Core) (fill : Bool) : Core :=
  { c with pred := Sparse.splice 0 c.pred 128 (List.replicate 16 (if fill then 18446744073709551615#64 else 0) ++ c.pred.slice 0 128 112) }

/-- LOOPK (R81): the loop and epilogue counts, the rotation base, and for V the stage predicates. -/
def execLoopk (imm : BitVec 25) (s : State) : Out1 :=
  let e := s.eng
  let c := s.me
  let lc := c.getC e 19
  let ec := c.getC e 20
  let fill := lc != 0
  let taken := fill || decide (1 < ec.toNat)
  let c := if fill then c.setC e 19 (lc - 1) else c.setC e 20 (if 1 < ec.toNat then ec - 1 else 0)
  let c := c.setC e 18 (wOf ((c.getC e 18).toNat % 16 + 15) &&& 15)
  let c := if e = Eng.v then c.shiftStages fill else c
  let s := s.setMe c
  .next (if taken then s.jump 2 (s.target imm) else s.passX 2)

end Sys2Proof.Machine
end

