-- ==== Sys2Proof/Machine/Dispatch.lean ====
section
/-! DEFINITION. The meaning of every instruction and event: one arm each, a direct call of its definition. -/

namespace Sys2Proof.Machine

def exec (i : Instr) (s : State) : Host.Outcome State Fault Refusal :=
  match i with
  | .add a0 a1 a2 => Sys2Proof.Machine.execAdd a0 a1 a2 s
  | .sub a0 a1 a2 => Sys2Proof.Machine.execSub a0 a1 a2 s
  | .mul a0 a1 a2 => Sys2Proof.Machine.execMul a0 a1 a2 s
  | .mulh a0 a1 a2 => Sys2Proof.Machine.execMulh a0 a1 a2 s
  | .mulhU a0 a1 a2 => Sys2Proof.Machine.execMulhU a0 a1 a2 s
  | .div a0 a1 a2 => Sys2Proof.Machine.execDiv a0 a1 a2 s
  | .divU a0 a1 a2 => Sys2Proof.Machine.execDivU a0 a1 a2 s
  | .rem a0 a1 a2 => Sys2Proof.Machine.execRem a0 a1 a2 s
  | .remU a0 a1 a2 => Sys2Proof.Machine.execRemU a0 a1 a2 s
  | .and a0 a1 a2 => Sys2Proof.Machine.execAnd a0 a1 a2 s
  | .or a0 a1 a2 => Sys2Proof.Machine.execOr a0 a1 a2 s
  | .xor a0 a1 a2 => Sys2Proof.Machine.execXor a0 a1 a2 s
  | .andn a0 a1 a2 => Sys2Proof.Machine.execAndn a0 a1 a2 s
  | .shl a0 a1 a2 => Sys2Proof.Machine.execShl a0 a1 a2 s
  | .shr a0 a1 a2 => Sys2Proof.Machine.execShr a0 a1 a2 s
  | .shra a0 a1 a2 => Sys2Proof.Machine.execShra a0 a1 a2 s
  | .rot a0 a1 a2 => Sys2Proof.Machine.execRot a0 a1 a2 s
  | .min a0 a1 a2 => Sys2Proof.Machine.execMin a0 a1 a2 s
  | .minU a0 a1 a2 => Sys2Proof.Machine.execMinU a0 a1 a2 s
  | .max a0 a1 a2 => Sys2Proof.Machine.execMax a0 a1 a2 s
  | .maxU a0 a1 a2 => Sys2Proof.Machine.execMaxU a0 a1 a2 s
  | .clz a0 a1 => Sys2Proof.Machine.execClz a0 a1 s
  | .ctz a0 a1 => Sys2Proof.Machine.execCtz a0 a1 s
  | .popc a0 a1 => Sys2Proof.Machine.execPopc a0 a1 s
  | .brev a0 a1 => Sys2Proof.Machine.execBrev a0 a1 s
  | .sext a0 a1 a2 => Sys2Proof.Machine.execSext a0 a1 a2 s
  | .zext a0 a1 a2 => Sys2Proof.Machine.execZext a0 a1 a2 s
  | .cmp a0 a1 a2 a3 => Sys2Proof.Machine.execCmp a0 a1 a2 a3 s
  | .sel a0 a1 a2 => Sys2Proof.Machine.execSel a0 a1 a2 s
  | .clmul a0 a1 a2 => Sys2Proof.Machine.execClmul a0 a1 a2 s
  | .clmulHi a0 a1 a2 => Sys2Proof.Machine.execClmulHi a0 a1 a2 s
  | .addi a0 a1 a2 => Sys2Proof.Machine.execAddi a0 a1 a2 s
  | .andi a0 a1 a2 => Sys2Proof.Machine.execAndi a0 a1 a2 s
  | .ori a0 a1 a2 => Sys2Proof.Machine.execOri a0 a1 a2 s
  | .xori a0 a1 a2 => Sys2Proof.Machine.execXori a0 a1 a2 s
  | .shli a0 a1 a2 => Sys2Proof.Machine.execShli a0 a1 a2 s
  | .shri a0 a1 a2 => Sys2Proof.Machine.execShri a0 a1 a2 s
  | .shrai a0 a1 a2 => Sys2Proof.Machine.execShrai a0 a1 a2 s
  | .padd a0 a1 a2 a3 => Sys2Proof.Machine.execPadd a0 a1 a2 a3 s
  | .pdiff a0 a1 a2 a3 => Sys2Proof.Machine.execPdiff a0 a1 a2 a3 s
  | .paln a0 a1 a2 => Sys2Proof.Machine.execPaln a0 a1 a2 s
  | .palnUp a0 a1 a2 => Sys2Proof.Machine.execPalnUp a0 a1 a2 s
  | .btob a0 a1 => Sys2Proof.Machine.execBtob a0 a1 s
  | .btobUp a0 a1 => Sys2Proof.Machine.execBtobUp a0 a1 s
  | .byte a0 a1 a2 => Sys2Proof.Machine.execByte a0 a1 a2 s
  | .pchk a0 a1 a2 a3 => Sys2Proof.Machine.execPchk a0 a1 a2 a3 s
  | .csrr a0 a1 => Sys2Proof.Machine.execCsrr a0 a1 s
  | .csrw a0 a1 => Sys2Proof.Machine.execCsrw a0 a1 s
  | .csrs a0 a1 => Sys2Proof.Machine.execCsrs a0 a1 s
  | .csrc a0 a1 => Sys2Proof.Machine.execCsrc a0 a1 s
  | .ret a0 => Sys2Proof.Machine.execRet a0 s
  | .hop => Sys2Proof.Machine.execHop s
  | .step => Sys2Proof.Machine.execStep s
  | .endTask => Sys2Proof.Machine.execEndTask s
  | .trap a0 => Sys2Proof.Machine.execTrap a0 s
  | .nop => Sys2Proof.Machine.execNop s
  | .sysc a0 => Sys2Proof.Machine.execSysc a0 s
  | .eret => Sys2Proof.Machine.execEret s
  | .fltr a0 a1 => Sys2Proof.Machine.execFltr a0 a1 s
  | .fltrClr a0 a1 => Sys2Proof.Machine.execFltrClr a0 a1 s
  | .halt => Sys2Proof.Machine.execHalt s
  | .li a0 a1 => Sys2Proof.Machine.execLi a0 a1 s
  | .lis a0 a1 => Sys2Proof.Machine.execLis a0 a1 s
  | .br a0 => Sys2Proof.Machine.execBr a0 s
  | .brc a0 a1 a2 a3 => Sys2Proof.Machine.execBrc a0 a1 a2 a3 s
  | .call a0 a1 => Sys2Proof.Machine.execCall a0 a1 s
  | .loop a0 a1 => Sys2Proof.Machine.execLoop a0 a1 s
  | .loopk a0 => Sys2Proof.Machine.execLoopk a0 s
  | .ctxsv a0 a1 a2 => Sys2Proof.Machine.execCtxsv a0 a1 a2 s
  | .ctxrs a0 a1 a2 => Sys2Proof.Machine.execCtxrs a0 a1 a2 s
  | .xlinv a0 a1 a2 => Sys2Proof.Machine.execXlinv a0 a1 a2 s
  | .bindq a0 a1 => Sys2Proof.Machine.execBindq a0 a1 s
  | .tierq a0 a1 => Sys2Proof.Machine.execTierq a0 a1 s
  | .fld a0 => Sys2Proof.Machine.execFld a0 s
  | .fldv a0 => Sys2Proof.Machine.execFldv a0 s
  | .fldk a0 => Sys2Proof.Machine.execFldk a0 s
  | .lds a0 => Sys2Proof.Machine.execLds a0 s
  | .fgath a0 => Sys2Proof.Machine.execFgath a0 s
  | .wset a0 => Sys2Proof.Machine.execWset a0 s
  | .wadv a0 => Sys2Proof.Machine.execWadv a0 s
  | .pref a0 => Sys2Proof.Machine.execPref a0 s
  | .prefArr a0 => Sys2Proof.Machine.execPrefArr a0 s
  | .gset a0 => Sys2Proof.Machine.execGset a0 s
  | .xcpy a0 => Sys2Proof.Machine.execXcpy a0 s
  | .fldw a0 => Sys2Proof.Machine.execFldw a0 s
  | .bwait a0 => Sys2Proof.Machine.execBwait a0 s
  | .fenceF a0 => Sys2Proof.Machine.execFenceF a0 s
  | .attp a0 => Sys2Proof.Machine.execAttp a0 s
  | .attl a0 => Sys2Proof.Machine.execAttl a0 s
  | .strSeek a0 => Sys2Proof.Machine.execStrSeek a0 s
  | .chnNxt a0 => Sys2Proof.Machine.execChnNxt a0 s
  | .mma a0 => Sys2Proof.Machine.execMma a0 s
  | .mmai a0 => Sys2Proof.Machine.execMmai a0 s
  | .mmv a0 => Sys2Proof.Machine.execMmv a0 s
  | .mz a0 => Sys2Proof.Machine.execMz a0 s
  | .macc a0 => Sys2Proof.Machine.execMacc a0 s
  | .mwcp a0 => Sys2Proof.Machine.execMwcp a0 s
  | .mwclr a0 => Sys2Proof.Machine.execMwclr a0 s
  | .vadd a0 => Sys2Proof.Machine.execVadd a0 s
  | .vsub a0 => Sys2Proof.Machine.execVsub a0 s
  | .vmul a0 => Sys2Proof.Machine.execVmul a0 s
  | .vfma a0 => Sys2Proof.Machine.execVfma a0 s
  | .vmin a0 => Sys2Proof.Machine.execVmin a0 s
  | .vmax a0 => Sys2Proof.Machine.execVmax a0 s
  | .vabs a0 => Sys2Proof.Machine.execVabs a0 s
  | .vneg a0 => Sys2Proof.Machine.execVneg a0 s
  | .vrcp a0 => Sys2Proof.Machine.execVrcp a0 s
  | .vrsq a0 => Sys2Proof.Machine.execVrsq a0 s
  | .vrefr a0 => Sys2Proof.Machine.execVrefr a0 s
  | .vrefq a0 => Sys2Proof.Machine.execVrefq a0 s
  | .vexp2 a0 => Sys2Proof.Machine.execVexp2 a0 s
  | .vlog2 a0 => Sys2Proof.Machine.execVlog2 a0 s
  | .vtanh a0 => Sys2Proof.Machine.execVtanh a0 s
  | .viadd a0 => Sys2Proof.Machine.execViadd a0 s
  | .visub a0 => Sys2Proof.Machine.execVisub a0 s
  | .vimul a0 => Sys2Proof.Machine.execVimul a0 s
  | .vand a0 => Sys2Proof.Machine.execVand a0 s
  | .vor a0 => Sys2Proof.Machine.execVor a0 s
  | .vxor a0 => Sys2Proof.Machine.execVxor a0 s
  | .vshl a0 => Sys2Proof.Machine.execVshl a0 s
  | .vshr a0 => Sys2Proof.Machine.execVshr a0 s
  | .vshra a0 => Sys2Proof.Machine.execVshra a0 s
  | .vclmul a0 => Sys2Proof.Machine.execVclmul a0 s
  | .vcmp a0 => Sys2Proof.Machine.execVcmp a0 s
  | .vselp a0 => Sys2Proof.Machine.execVselp a0 s
  | .vcvt a0 => Sys2Proof.Machine.execVcvt a0 s
  | .vqnt a0 => Sys2Proof.Machine.execVqnt a0 s
  | .vhad a0 => Sys2Proof.Machine.execVhad a0 s
  | .vrotr a0 => Sys2Proof.Machine.execVrotr a0 s
  | .vrotc a0 => Sys2Proof.Machine.execVrotc a0 s
  | .vbcr a0 => Sys2Proof.Machine.execVbcr a0 s
  | .vbcc a0 => Sys2Proof.Machine.execVbcc a0 s
  | .vredr a0 => Sys2Proof.Machine.execVredr a0 s
  | .vredc a0 => Sys2Proof.Machine.execVredc a0 s
  | .vscnr a0 => Sys2Proof.Machine.execVscnr a0 s
  | .vscnc a0 => Sys2Proof.Machine.execVscnc a0 s
  | .vtrn a0 => Sys2Proof.Machine.execVtrn a0 s
  | .vcomp a0 => Sys2Proof.Machine.execVcomp a0 s
  | .vtopk a0 => Sys2Proof.Machine.execVtopk a0 s
  | .viota a0 => Sys2Proof.Machine.execViota a0 s
  | .vmov a0 => Sys2Proof.Machine.execVmov a0 s
  | .vmovz a0 => Sys2Proof.Machine.execVmovz a0 s
  | .vmovs a0 => Sys2Proof.Machine.execVmovs a0 s
  | .vbcs a0 => Sys2Proof.Machine.execVbcs a0 s
  | .vldb a0 => Sys2Proof.Machine.execVldb a0 s
  | .vstb a0 => Sys2Proof.Machine.execVstb a0 s
  | .pand a0 => Sys2Proof.Machine.execPand a0 s
  | .por a0 => Sys2Proof.Machine.execPor a0 s
  | .pxor a0 => Sys2Proof.Machine.execPxor a0 s
  | .pnot a0 => Sys2Proof.Machine.execPnot a0 s
  | .pset a0 => Sys2Proof.Machine.execPset a0 s
  | .pcnt a0 => Sys2Proof.Machine.execPcnt a0 s
  | .pfrst a0 => Sys2Proof.Machine.execPfrst a0 s
  | .ppack a0 => Sys2Proof.Machine.execPpack a0 s
  | .punpk a0 => Sys2Proof.Machine.execPunpk a0 s
  | .atmrg a0 => Sys2Proof.Machine.execAtmrg a0 s
  | .fst a0 => Sys2Proof.Machine.execFst a0 s
  | .fstv a0 => Sys2Proof.Machine.execFstv a0 s
  | .sts a0 => Sys2Proof.Machine.execSts a0 s
  | .fscat a0 => Sys2Proof.Machine.execFscat a0 s
  | .atom a0 => Sys2Proof.Machine.execAtom a0 s
  | .red a0 => Sys2Proof.Machine.execRed a0 s
  | .copy a0 => Sys2Proof.Machine.execCopy a0 s
  | .publ a0 => Sys2Proof.Machine.execPubl a0 s
  | .shad a0 => Sys2Proof.Machine.execShad a0 s
  | .fenceW a0 => Sys2Proof.Machine.execFenceW a0 s
  | .bini a0 => Sys2Proof.Machine.execBini a0 s
  | .barr a0 => Sys2Proof.Machine.execBarr a0 s
  | .mgrp a0 => Sys2Proof.Machine.execMgrp a0 s
  | .mrow a0 => Sys2Proof.Machine.execMrow a0 s
  | .mcmt a0 => Sys2Proof.Machine.execMcmt a0 s
  | .invl a0 => Sys2Proof.Machine.execInvl a0 s
  | .attf a0 => Sys2Proof.Machine.execAttf a0 s
  | .strDep a0 => Sys2Proof.Machine.execStrDep a0 s
  | .strPin a0 => Sys2Proof.Machine.execStrPin a0 s
  | .strRel a0 => Sys2Proof.Machine.execStrRel a0 s
  | .strDrop a0 => Sys2Proof.Machine.execStrDrop a0 s
  | .chnBeg a0 => Sys2Proof.Machine.execChnBeg a0 s
  | .chnEnd a0 => Sys2Proof.Machine.execChnEnd a0 s
  | .crmProm a0 => Sys2Proof.Machine.execCrmProm a0 s
  | .crmDem a0 => Sys2Proof.Machine.execCrmDem a0 s
  | .plcApp a0 => Sys2Proof.Machine.execPlcApp a0 s
  | .plcUpd a0 => Sys2Proof.Machine.execPlcUpd a0 s
  | .skipWord a0 => Sys2Proof.Machine.execSkipWord a0 s
  | .illegalInstruction a0 a1 => Sys2Proof.Machine.execIllegalInstruction a0 a1 s
  | .tokenPop a0 a1 a2 => Sys2Proof.Machine.execTokenPop a0 a1 a2 s
  | .tokenPush a0 => Sys2Proof.Machine.execTokenPush a0 s
  | .tokenDeadlockFault => Sys2Proof.Machine.execTokenDeadlockFault s
  | .handOverCopyDone a0 a1 => Sys2Proof.Machine.execHandOverCopyDone a0 a1 s
  | .slabMove a0 a1 a2 => Sys2Proof.Machine.execSlabMove a0 a1 a2 s
  | .slabMoveRetry a0 a1 a2 => Sys2Proof.Machine.execSlabMoveRetry a0 a1 a2 s
  | .partsRequestReturn a0 a1 => Sys2Proof.Machine.execPartsRequestReturn a0 a1 s
  | .lowerTierDeadline a0 => Sys2Proof.Machine.execLowerTierDeadline a0 s
  | .append a0 a1 a2 => Sys2Proof.Machine.execAppend a0 a1 a2 s
  | .schedulerIssue => Sys2Proof.Machine.execSchedulerIssue s
  | .periodBoundary => Sys2Proof.Machine.execPeriodBoundary s
  | .communicationStep a0 => Sys2Proof.Machine.execCommunicationStep a0 s
  | .bteCommand a0 => Sys2Proof.Machine.execBteCommand a0 s
  | .launchFinish a0 => Sys2Proof.Machine.execLaunchFinish a0 s
  | .watchdogFault a0 => Sys2Proof.Machine.execWatchdogFault a0 s
  | .preemptionStrike a0 => Sys2Proof.Machine.execPreemptionStrike a0 s
  | .preemptionDeadline a0 => Sys2Proof.Machine.execPreemptionDeadline a0 s
  | .promotion => Sys2Proof.Machine.execPromotion s
  | .promotionPublish => Sys2Proof.Machine.execPromotionPublish s
  | .demotion => Sys2Proof.Machine.execDemotion s
  | .pageWalk a0 a1 => Sys2Proof.Machine.execPageWalk a0 a1 s
  | .hotRowRefresh a0 a1 a2 => Sys2Proof.Machine.execHotRowRefresh a0 a1 a2 s
  | .stackEngineWatchdog a0 => Sys2Proof.Machine.execStackEngineWatchdog a0 s
  | .clearingEngineRow a0 => Sys2Proof.Machine.execClearingEngineRow a0 s
  | .sramScrub a0 => Sys2Proof.Machine.execSramScrub a0 s
  | .dramScrub a0 => Sys2Proof.Machine.execDramScrub a0 s
  | .recordWrite a0 a1 => Sys2Proof.Machine.execRecordWrite a0 a1 s
  | .pactActivate a0 a1 => Sys2Proof.Machine.execPactActivate a0 a1 s
  | .pactReset a0 => Sys2Proof.Machine.execPactReset a0 s
  | .pactDisable a0 => Sys2Proof.Machine.execPactDisable a0 s
  | .pbindWrite a0 a1 => Sys2Proof.Machine.execPbindWrite a0 a1 s
  | .preqPreempt a0 a1 => Sys2Proof.Machine.execPreqPreempt a0 a1 s
  | .preqResume a0 a1 => Sys2Proof.Machine.execPreqResume a0 a1 s
  | .rcvrReplay a0 a1 a2 => Sys2Proof.Machine.execRcvrReplay a0 a1 a2 s
  | .rcvrRebindReplay a0 a1 a2 a3 => Sys2Proof.Machine.execRcvrRebindReplay a0 a1 a2 a3 s
  | .rcvrAbort a0 a1 a2 => Sys2Proof.Machine.execRcvrAbort a0 a1 a2 s
  | .fdemRole a0 a1 a2 a3 => Sys2Proof.Machine.execFdemRole a0 a1 a2 a3 s
  | .fdemObject a0 a1 a2 => Sys2Proof.Machine.execFdemObject a0 a1 a2 s
  | .qcfgWrite a0 a1 a2 => Sys2Proof.Machine.execQcfgWrite a0 a1 a2 s
  | .wakeWrite a0 => Sys2Proof.Machine.execWakeWrite a0 s
  | .pstlLoad => Sys2Proof.Machine.execPstlLoad s
  | .functionLevelReset a0 => Sys2Proof.Machine.execFunctionLevelReset a0 s
  | .hostMemoryRead a0 a1 a2 => Sys2Proof.Machine.execHostMemoryRead a0 a1 a2 s
  | .hostMemoryWrite a0 a1 a2 => Sys2Proof.Machine.execHostMemoryWrite a0 a1 a2 s
  | .rootMailboxWrite a0 => Sys2Proof.Machine.execRootMailboxWrite a0 s
  | .berastRd a0 => Sys2Proof.Machine.execBerastRd a0 s
  | .berastWr a0 => Sys2Proof.Machine.execBerastWr a0 s
  | .berastAtom a0 => Sys2Proof.Machine.execBerastAtom a0 s
  | .berastBar a0 => Sys2Proof.Machine.execBerastBar a0 s
  | .berastRedp a0 => Sys2Proof.Machine.execBerastRedp a0 s
  | .berastChnb a0 => Sys2Proof.Machine.execBerastChnb a0 s
  | .berastPlcd a0 => Sys2Proof.Machine.execBerastPlcd a0 s
  | .berastRdr a0 => Sys2Proof.Machine.execBerastRdr a0 s
  | .berastAck a0 => Sys2Proof.Machine.execBerastAck a0 s
  | .berastAtr a0 => Sys2Proof.Machine.execBerastAtr a0 s
  | .berastBrs a0 => Sys2Proof.Machine.execBerastBrs a0 s
  | .berastRedm a0 => Sys2Proof.Machine.execBerastRedm a0 s
  | .berastErr a0 => Sys2Proof.Machine.execBerastErr a0 s
  | .berastFlitDrop a0 => Sys2Proof.Machine.execBerastFlitDrop a0 s
  | .portDown a0 => Sys2Proof.Machine.execPortDown a0 s
  | .churnStepSend a0 => Sys2Proof.Machine.execChurnStepSend a0 s
  | .churnOpenTimeout a0 => Sys2Proof.Machine.execChurnOpenTimeout a0 s
  | .oszinRd a0 a1 => Sys2Proof.Machine.execOszinRd a0 a1 s
  | .oszinWr a0 a1 => Sys2Proof.Machine.execOszinWr a0 a1 s
  | .gopen a0 a1 => Sys2Proof.Machine.execGopen a0 a1 s
  | .grow a0 a1 => Sys2Proof.Machine.execGrow a0 a1 s
  | .gcmt a0 a1 => Sys2Proof.Machine.execGcmt a0 a1 s
  | .gabt a0 a1 => Sys2Proof.Machine.execGabt a0 a1 s
  | .slot a0 a1 => Sys2Proof.Machine.execSlot a0 a1 s
  | .idrd a0 a1 => Sys2Proof.Machine.execIdrd a0 a1 s
  | .reprd a0 a1 => Sys2Proof.Machine.execReprd a0 a1 s
  | .rste a0 a1 => Sys2Proof.Machine.execRste a0 a1 s
  | .clrs a0 a1 => Sys2Proof.Machine.execClrs a0 a1 s
  | .esans a0 a1 => Sys2Proof.Machine.execEsans a0 a1 s
  | .oszinRdr a0 a1 => Sys2Proof.Machine.execOszinRdr a0 a1 s
  | .oszinAck a0 a1 => Sys2Proof.Machine.execOszinAck a0 a1 s
  | .gdone a0 a1 => Sys2Proof.Machine.execGdone a0 a1 s
  | .blk a0 a1 => Sys2Proof.Machine.execBlk a0 a1 s
  | .wdog a0 a1 => Sys2Proof.Machine.execWdog a0 a1 s
  | .rstd a0 a1 => Sys2Proof.Machine.execRstd a0 a1 s
  | .clrd a0 a1 => Sys2Proof.Machine.execClrd a0 a1 s
  | .escmd a0 a1 => Sys2Proof.Machine.execEscmd a0 a1 s
  | .esreqRd a0 a1 => Sys2Proof.Machine.execEsreqRd a0 a1 s
  | .esreqWr a0 a1 => Sys2Proof.Machine.execEsreqWr a0 a1 s
  | .esreqAtom a0 a1 => Sys2Proof.Machine.execEsreqAtom a0 a1 s
  | .esreqBar a0 a1 => Sys2Proof.Machine.execEsreqBar a0 a1 s
  | .esreqRedp a0 a1 => Sys2Proof.Machine.execEsreqRedp a0 a1 s
  | .oszinErr a0 a1 => Sys2Proof.Machine.execOszinErr a0 a1 s
  | .oszinMalformedFlit a0 a1 => Sys2Proof.Machine.execOszinMalformedFlit a0 a1 s
  | .oszinLinkLost a0 => Sys2Proof.Machine.execOszinLinkLost a0 s
  | .flashMemoryRead a0 a1 => Sys2Proof.Machine.execFlashMemoryRead a0 a1 s
  | .flashDeferrableWrite a0 a1 => Sys2Proof.Machine.execFlashDeferrableWrite a0 a1 s
  | .flashRequestRetry a0 => Sys2Proof.Machine.execFlashRequestRetry a0 s
  | .flashEngineRequest a0 => Sys2Proof.Machine.execFlashEngineRequest a0 s
  | .flashEngineAnswer a0 => Sys2Proof.Machine.execFlashEngineAnswer a0 s
  | .flashQueueWork a0 => Sys2Proof.Machine.execFlashQueueWork a0 s
  | .flashQueueWorkAnswer a0 a1 a2 a3 => Sys2Proof.Machine.execFlashQueueWorkAnswer a0 a1 a2 a3 s
  | .dieBlockClear a0 a1 => Sys2Proof.Machine.execDieBlockClear a0 a1 s
  | .dieEngineReset a0 a1 => Sys2Proof.Machine.execDieEngineReset a0 a1 s
  | .flashLinkLost a0 => Sys2Proof.Machine.execFlashLinkLost a0 s
  | .powerOn a0 a1 a2 a3 => Sys2Proof.Machine.execPowerOn a0 a1 a2 a3 s
  | .powerLoss => Sys2Proof.Machine.execPowerLoss s
  | .thermalThrottle a0 => Sys2Proof.Machine.execThermalThrottle a0 s
  | .thermalTrip => Sys2Proof.Machine.execThermalTrip s
  | .prefetchArrival => Sys2Proof.Machine.execPrefetchArrival s
  | .activationWindowEnd a0 => Sys2Proof.Machine.execActivationWindowEnd a0 s
  | .queueReset a0 a1 => Sys2Proof.Machine.execQueueReset a0 a1 s
  | .launchAbort a0 a1 => Sys2Proof.Machine.execLaunchAbort a0 a1 s
  | .attestationReport a0 a1 => Sys2Proof.Machine.execAttestationReport a0 a1 s
  | .imageMeasurement a0 a1 a2 => Sys2Proof.Machine.execImageMeasurement a0 a1 a2 s

end Sys2Proof.Machine
end

