-- ==== Sys2Proof/Machine/Step.lean ====
section
/-! DEFINITION. One step of the module: the next turn, and the word or event it executes. -/

namespace Sys2Proof.Machine

/-- The first entry of the agenda powers the module on (R453), or reads the status block of a module that a thermal trip has stopped, whose hub
answers still (R438, R454). -/
def State.poweringOn (s : State) : Bool :=
  match s.agenda with
  | (some (.powerOn _ _ _ _), _, _) :: _ => true
  | (some (.hostMemoryRead w _ _), _, _) :: _ => s.edge.pfStatus.getLsbD 3 && w.region == .pf
  | _ => false

/-- ONE STEP. Without power only powering on steps, and after a thermal trip a read of the status block. Otherwise the next turn is taken: a
device event executes, or the engine whose turn it is executes its next word, or waits. -/
def step (s : State) : Host.Outcome State Fault Refusal :=
  if !s.edge.powered && !s.poweringOn then .fault .stopped
  else match s.takeTurn with
    | (some i, s') => exec i s'
    | (none, s') =>
      match s'.turn with
      | .idle t => .next t
      | .run i t => exec i t

/-- The state whose very next step runs the instruction of these bits (see `decodeTableWord`): its bytes stand at the pc of
the root core, which a program loaded by the boot ROM enters (R453; log 4), and the engine of its tag has the turn. -/
def State.withFetchWord (s : State) (nbits w : Nat) : State :=
  let e := match tagEngine (engTag (w % 4294967296)) with | some e => e | none => Eng.f
  let s := { s with cur := rootId, eng := e, next := e, agenda := [] }
  s.placeText (bytesOfNat 8 (w % 2 ^ nbits))

end Sys2Proof.Machine
end

