-- ==== Sys2Proof/Safety.lean ====
section
/-! DEFINITION. What counts as a safe state and a safe run, and the terms the statements use: what an instruction, an event or a message leaves
as it was, and what it changes. -/

namespace Sys2Proof.Machine

/-- No step from s stops the machine. -/
def State.safe (s : State) : Prop := ∃ t, step s = .next t

/-- The invariant of memory: its bytes stand in their one canonical form. -/
def State.memoryWf (s : State) : Prop := s.memory.wf = true

/-! ### What stays as it was -/

/-- Every byte of memory reads as before. -/
def State.sameBytes (s t : State) : Prop := ∀ a, t.byteAt a = s.byteAt a

/-- Every byte of memory outside the n bytes from address lo on reads as before. -/
def State.sameBytesBut (s t : State) (lo n : Nat) : Prop := ∀ a, a < lo ∨ lo + n ≤ a → t.byteAt a = s.byteAt a

/-- Every core but the running one is as before. -/
def State.sameOthers (s t : State) : Prop := ∀ k, k ≠ s.cur → t.core k = s.core k

/-- Only the running core may have changed. -/
def State.onlyCore (s t : State) : Prop := { t with cores := s.cores } = s ∧ s.sameOthers t ∧ s.sameBytes t

/-- Only the running core may have changed, and the requests to other modules of the running engine's instruction are gone. -/
def State.onlyCoreAndAsks (s t : State) : Prop :=
  { t with cores := s.cores, edge := { t.edge with asks := s.edge.asks } } = s ∧ s.sameOthers t ∧ s.sameBytes t

/-- Engine e alone has moved on, to address a, past n words, and no fault has stopped the task. -/
def Core.movedOn (c d : Core) (e : Eng) (a : Word) (n : Nat) : Prop :=
  (∀ x, d.pc.get x = if x = e then a else c.pc.get x) ∧
  (∀ x, d.pass.get x = if x = e then c.pass.get x + wOf n else c.pass.get x) ∧ d.stopped = c.stopped

/-! ### X instructions -/

/-- t is s after an X instruction of n words that writes v to s[d] of the running engine's copy, goes on at address a, and
does nothing else. A write to s0 writes nothing. -/
def State.didX (s t : State) (n : Nat) (a : Word) (d : Reg) (v : Word) : Prop :=
  s.me.movedOn t.me s.eng a n ∧
  (∀ e (r : Reg), t.me.getS e r.val = if r = 0 then 0 else if e = s.eng ∧ r = d then v else s.me.getS e r.val) ∧
  { t.me with pc := s.me.pc, pass := s.me.pass, scal := s.me.scal } = s.me ∧ s.onlyCore t

/-- The instruction completes in every state: it passes its n words and writes v to s[d], and nothing else. -/
def Computes (i : Instr) (n : Nat) (d : Reg) (v : State → Word) : Prop :=
  ∀ s, ∃ t, exec i s = .next t ∧ s.didX t n (s.me.pc.get s.eng + wOf (32 * n)) d (v s)

/-- t is s after a one-word X instruction that leaves v in tile-mode CSR number n of the running engine's copy, and does nothing else. -/
def State.didCsr (s t : State) (n : Nat) (v : Word) : Prop :=
  s.me.movedOn t.me s.eng (s.me.pc.get s.eng + 32) 1 ∧
  (∀ e k, k < 256 → t.me.getC e k = if e = s.eng ∧ k = n then v else s.me.getC e k) ∧
  { t.me with pc := s.me.pc, pass := s.me.pass, csr := s.me.csr } = s.me ∧ s.onlyCore t

/-- d is core c stopped with this class, every engine at an instruction boundary: the tokens that an engine had popped for an instruction it
has not retired are back at the heads of their FIFOs, and no register has changed (R41, R99). -/
def Core.stoppedAs (c d : Core) (cls : Nat) : Prop :=
  d.stopped = some cls ∧ (∀ e, d.popped.get e = []) ∧
  (∀ q, d.tokens q = ([Eng.w, .v, .m, .f].flatMap fun e =>
    (((c.popped.get e).filter fun x => x.1 = q).map fun x => x.2).reverse) ++ c.tokens q) ∧
  { d with stopped := c.stopped, fifo := c.fifo, popped := c.popped, fBar := c.fBar, wBar := c.wBar } = c

/-! ### Tagged instructions -/

/-- The state in which the body of a tagged instruction of engine e runs: its tokens are popped, and e's copy has received
what they bring. None while a FIFO that it pops from is empty (R60, R99). -/
def State.issuing (s : State) (e : Eng) (tk : Toks) : Option State :=
  let s := { s with eng := e }
  (s.takeTokens s.cur e (popsOf e tk)).map fun u => u.setMe (u.me.hear e)

/-- The tokens that the instruction pops are there, one in each FIFO it names, or its engine has popped them already (R60, R99). -/
def State.hasTokens (s : State) (e : Eng) (tk : Toks) : Prop := s.me.popped.get e ≠ [] ∨ ∀ q ∈ popsOf e tk, s.me.tokens q ≠ []

/-- The instruction's fault at its engine: the engine's tokens are popped, and given back by the fault (R41, R99). -/
def faultsAs (e : Eng) (tk : Toks) (i : Instr) (s : State) (f : Trap) : Prop :=
  ∃ v, ({ s with eng := e } : State).takeTokens s.cur e (popsOf e tk) = some v ∧ exec i s = .next (v.takeFault v.cur e f)

/-- FIFO q has room for a token of engine e: fewer than 8 places hold tokens, or are kept for tokens that another engine has popped for an
instruction it has not retired (R98, R99). -/
def Core.hasRoom (c : Core) (e : Eng) (q : Nat) : Prop := ({ c with popped := c.popped.set e [] } : Core).taken q < 8

/-- Engine e of the running core has retired its two-word instruction: it has moved on, holds no popped tokens, and every
FIFO it pushes into that had room has the engine's token at its tail; the other FIFOs are as they were (R31, R91, R99). -/
def State.retired (u t : State) (e : Eng) (tk : Toks) : Prop :=
  u.me.movedOn t.me e (u.me.pc.get e + 64) 2 ∧ t.me.popped.get e = [] ∧
  ∀ q, (q ∈ pushesOf e tk → u.me.hasRoom e q → t.me.tokens q = u.me.tokens q ++ [t.me.known.get e]) ∧
    (q ∉ pushesOf e tk ∨ ¬u.me.hasRoom e q → t.me.tokens q = u.me.tokens q)

/-! ### Memory -/

/-- Memory in its usual state: no row or block waits to be cleared, every sector carries the code of its bytes, no flash unit fails, and no
access of an instruction under way has failed at a link or a lower tier. -/
def State.plain (s : State) : Prop :=
  s.memory.clrRows = [] ∧ s.memory.clrBlocks = [] ∧ s.memory.check = [] ∧ s.memory.badUnits = [] ∧ s.edge.late = []

/-- The running task keeps no replay slot, into which its writes would be logged (R392 to R396). -/
def State.slotless (s : State) : Prop := ∀ k, s.me.owner = some k → s.slotOf k = none

/-- Resolved bits lie in ordinary memory of the module: DRAM or flash, in a 64 KiB page that no port page meets, on no lost die. -/
def State.ordinary (s : State) (g : Seg) : Prop :=
  (s.region (g.1 / 8) = .dram ∨ s.region (g.1 / 8) = .flash) ∧ windowOf (g.1 / 8) = none ∧
    s.portOver (g.1 / 524288 * 65536) 65536 = false ∧ s.lostAt (g.1 / 8) = false

/-- Bit b of physical memory, as every reader sees it. -/
def State.bitAt (s : State) (b : Nat) : Bool := (s.byteAt (b / 8)).getLsbD (b % 8)

/-- Only cached translations and the lines in L2 may differ. -/
def State.onlyCaches (u w : State) : Prop :=
  { w with memory := { w.memory with tlb := u.memory.tlb, lines := u.memory.lines } } = u

/-! ### Results of instructions, events and messages -/

/-- Bit k of the carry-less product of a and b. -/
def carryLessBit (a b : Word) (k : Nat) : Bool :=
  (List.range 64).foldl (fun p i => p != (b.getLsbD i && decide (i ≤ k) && a.getLsbD (k - i))) false

/-- The target of a branch (R77). -/
def branchTarget (s : State) (imm : BitVec 25) : Word := s.me.pc.get s.eng + imm.signExtend 64 * 32

/-- The tile-mode CSRs that a task may write: SLIPW to BCC and the bank format words (R65). -/
def writableTileCsr (n : Nat) : Prop := (16 ≤ n ∧ n ≤ 24) ∨ (32 ≤ n ∧ n ≤ 47)

/-- The numbers that R65 lists for a tile task. -/
def listedTile (n : Nat) : Prop := n ≤ 6 ∨ writableTileCsr n ∨ n = 48 ∨ (64 ≤ n ∧ n ≤ 66)

/-- The numbers that R422 lists. -/
def listedControl (n : Nat) : Prop :=
  (256 ≤ n ∧ n ≤ 260) ∨ (272 ≤ n ∧ n ≤ 281) ∨ (288 ≤ n ∧ n ≤ 291) ∨ (320 ≤ n ∧ n ≤ 383)

/-- The numbers that R423 and R440 list. -/
def listedRoot (n : Nat) : Prop :=
  (512 ≤ n ∧ n ≤ 516) ∨ n = 528 ∨ (544 ≤ n ∧ n ≤ 578) ∨ (592 ≤ n ∧ n ≤ 597) ∨ (608 ≤ n ∧ n ≤ 623)

/-- The firmware of core k, a control core, has nothing under way: no ring, no request to another module, no slab of another unit. -/
def State.firmwareQuiet (s : State) (k : CoreId) : Prop :=
  s.ringOf ((k + 256) * 256) = none ∧ (s.core k).holder = [] ∧ ∀ a ∈ s.edge.asks, a.core ≠ k

/-- Every other engine of the running core stands at the meeting word w. -/
def othersStandAt (s : State) (w : Wait) : Prop := ∀ e, e ≠ s.eng → s.me.wait.get e = w

/-- The pass counts of the running core's engines are equal. -/
def equalPassCounts (s : State) : Prop := ∀ e, s.me.pass.get e = s.me.pass.get s.eng

/-- The running core as the meeting finds it: its fourth engine stands too, and every copy has received every update (R62). -/
def metAt (s : State) (w : Wait) : Core := ({ s.me with wait := s.me.wait.set s.eng w } : Core).deliverAll

/-- The instructions with token bits, by their engine. -/
def taggedWith (tk : Toks) (e : Eng) (i : Instr) : Prop :=
  match e with
  | .f => (∃ x : MW, x.tk = tk ∧ i ∈ [.fld x, .fldv x, .fldk x, .fgath x, .wset x, .wadv x, .pref x, .prefArr x, .gset x,
      .xcpy x, .fldw x, .bwait x, .fenceF x, .attp x, .attl x, .strSeek x, .chnNxt x]) ∨ ∃ x : MS, x.tk = tk ∧ i = .lds x
  | .m => ∃ x : VW, x.tk = tk ∧ i ∈ [Instr.mma x, .mmai x, .mmv x, .mz x, .macc x, .mwcp x, .mwclr x]
  | .v => ∃ x : VW, x.tk = tk ∧ i ∈ [Instr.vadd x, .vsub x, .vmul x, .vfma x, .vmin x, .vmax x, .vabs x, .vneg x, .vrcp x, .vrsq x,
      .vrefr x, .vrefq x, .vexp2 x, .vlog2 x, .vtanh x, .viadd x, .visub x, .vimul x, .vand x, .vor x, .vxor x, .vshl x, .vshr x,
      .vshra x, .vclmul x, .vcmp x, .vselp x, .vcvt x, .vqnt x, .vhad x, .vrotr x, .vrotc x, .vbcr x, .vbcc x, .vredr x, .vredc x,
      .vscnr x, .vscnc x, .vtrn x, .vcomp x, .vtopk x, .viota x, .vmov x, .vmovz x, .vmovs x, .vbcs x, .vldb x, .vstb x, .pand x,
      .por x, .pxor x, .pnot x, .pset x, .pcnt x, .pfrst x, .ppack x, .punpk x, .atmrg x]
  | .w => (∃ x : MW, x.tk = tk ∧ i ∈ [.fst x, .fstv x, .fscat x, .atom x, .red x, .copy x, .publ x, .shad x, .fenceW x, .bini x,
      .barr x, .mgrp x, .mrow x, .mcmt x, .invl x, .attf x, .strDep x, .strPin x, .strRel x, .strDrop x, .chnBeg x, .chnEnd x,
      .crmProm x, .crmDem x, .plcApp x, .plcUpd x]) ∨ ∃ x : MS, x.tk = tk ∧ i = .sts x

/-- Lane (i, k) of the vector register that V names j. -/
def vlane (c : Core) (j : Reg) (i k : Nat) : Nat := (c.vreg.get 0 (1024 * c.phys .v j.val + 64 * i + k)).toNat

/-- The well-formed V instructions that act element by element on a vector register (R220, R221). -/
def elementwise (x : VW) : List Instr :=
  [.vadd x, .vsub x, .vmul x, .vfma x, .vmin x, .vmax x, .vabs x, .vneg x, .vrcp x, .vrsq x, .vrefr x, .vrefq x, .vexp2 x, .vlog2 x,
   .vtanh x, .viadd x, .visub x, .vimul x, .vand x, .vor x, .vxor x, .vshl x, .vshr x, .vshra x, .vclmul x, .vselp x, .vcvt x,
   .vhad x, .vrotr x, .vrotc x, .vbcr x, .vbcc x, .vtrn x, .viota x, .vmov x, .vmovz x, .vbcs x]

/-- The V instructions that move whole lines of lanes by their own rules (R241 to R243, R251). -/
def linewise (x : VW) : List Instr := [.vredr x, .vredc x, .vscnr x, .vscnc x, .vcomp x, .atmrg x]

/-- t is u after V has retired an instruction that changes no register but lanes of valid rows and columns of v_d, and flags and
dither phase of V's copy. -/
def onlyLanesOfD (x : VW) (u t : State) : Prop :=
  u.retired t .v x.tk ∧ u.onlyCoreAndAsks t ∧
  { t.me with pc := u.me.pc, pass := u.me.pass, fifo := u.me.fifo, popped := u.me.popped, wait := u.me.wait, vreg := u.me.vreg,
              csr := u.me.csr } = u.me ∧
  (∀ e k, k < 256 → e ≠ .v ∨ (k ≠ 21 ∧ k ≠ 22) → t.me.getC e k = u.me.getC e k) ∧
  (t.me.getC .v 22 &&& u.me.getC .v 22 = u.me.getC .v 22) ∧
  ∀ (j : Fin 32) i k, i < 16 → k < 64 → j.val ≠ u.me.phys .v x.d.val ∨ u.me.rows .v ≤ i ∨ u.me.cols .v ≤ k →
    t.me.vreg.get 0 (1024 * j.val + 64 * i + k) = u.me.vreg.get 0 (1024 * j.val + 64 * i + k)

/-- An active element of row r of a type: it is valid and its predicate bit is 1 (R220). -/
def activeElement (x : VW) (t : Ty) (c : Core) (r e : Nat) : Prop :=
  r < c.rows .v ∧ (if t.width = 64 then 2 * e + 1 < c.cols .v ∧ (c.prow x.pred.val r).testBit (2 * e) = true
    else e < c.cols .v ∧ (c.prow x.pred.val r).testBit e = true)

/-- The code of element e of row r of v_j, read by type (R179). -/
def elementCode (t : Ty) (c : Core) (j : Reg) (r e : Nat) : Nat :=
  if t.width = 64 then vlane c j r (2 * e) + vlane c j r (2 * e + 1) * 2 ^ 32 else vlane c j r e % 2 ^ t.width

/-- Element e of row r of v_j holds the code v as R179 writes it: sign-extended in its lane for the signed types, else zero-extended. -/
def holdsCode (t : Ty) (c : Core) (j : Reg) (r e v : Nat) : Prop :=
  if t.width = 64 then vlane c j r (2 * e) = v % 2 ^ 32 ∧ vlane c j r (2 * e + 1) = v / 2 ^ 32
  else vlane c j r e = (if t.isSigned = true then ((BitVec.ofNat t.width v).signExtend 32).toNat else v)

/-- R221: every active element of v_d holds op of the codes that its sources held before. -/
def elementResult (i : Instr) (x : VW) (t : Ty) (op : Nat → Nat → Nat) : Prop := ∀ (s u w : State) (r e : Nat),
  s.issuing .v x.tk = some u → i.wf = true → exec i s = .next w → activeElement x t u.me r e →
  holdsCode t w.me x.d r e (op (elementCode t u.me x.a r e) (elementCode t u.me x.b r e))

/-- The integer a code stands for: signed for the i types (R176). -/
def codeInt (t : Ty) (v : Nat) : Int := if t.isSigned = true then (BitVec.ofNat t.width v).toInt else v

/-- The code of an integer result, wrapped, or clamped with SAT (R228). -/
def integerCode (x : VW) (v : Int) : Nat :=
  let w := x.ty.width
  let lo : Int := if x.ty.isSigned = true then -(2 ^ (w - 1)) else 0
  let hi : Int := if x.ty.isSigned = true then 2 ^ (w - 1) - 1 else 2 ^ w - 1
  (BitVec.ofInt w (if x.sat = true then max lo (min hi v) else v)).toNat

/-- R189, R193: v is the code of the exact number num / den, rounded once into a floating type; a zero has the given sign. -/
def roundsTo (t : Ty) (mode : Rm) (sat zero : Bool) (num : Int) (den v : Nat) : Prop :=
  ∃ (neg : Bool) (n d : Nat), 0 < d ∧ sNum neg n * den = num * d ∧ (num = 0 → neg = zero) ∧ v = (rnd t mode sat (.fin neg n d)).1

/-- t is u after V has retired an instruction that writes v to s[d] of V's copy, as an update on its way to the other copies (R60); a
destination s0 takes nothing. -/
def onlyScalar (x : VW) (u t : State) (v : Word) : Prop :=
  u.retired t .v x.tk ∧ u.onlyCoreAndAsks t ∧
  (∀ e (r : Reg), t.me.getS e r.val = if r = 0 then 0 else if e = .v ∧ r = x.d then v else u.me.getS e r.val) ∧
  (x.d ≠ 0 → t.me.upds = u.me.upds ++ [⟨.v, u.me.made.v, x.d.val, v⟩] ∧ t.me.made = u.me.made.set .v (u.me.made.v + 1)) ∧
  { t.me with pc := u.me.pc, pass := u.me.pass, fifo := u.me.fifo, popped := u.me.popped, wait := u.me.wait, scal := u.me.scal,
              upds := u.me.upds, made := u.me.made, known := u.me.known } = u.me

/-- t is u after M has retired an instruction that changes nothing of the machine but the accumulators and the flags of M's copy. -/
def onlyAccumulators (x : VW) (u t : State) : Prop :=
  u.retired t .m x.tk ∧ u.onlyCoreAndAsks t ∧ t.me.parts = [] ∧
  { t.me with pc := u.me.pc, pass := u.me.pass, fifo := u.me.fifo, popped := u.me.popped, wait := u.me.wait, parts := u.me.parts,
              acc := u.me.acc, csr := u.me.csr } = u.me ∧
  (∀ e k, k < 256 → e ≠ .m ∨ k ≠ 22 → t.me.getC e k = u.me.getC e k) ∧
  t.me.getC .m 22 &&& u.me.getC .m 22 = u.me.getC .m 22

/-- The columns of row r that VTOPK chooses: the first of those it ranks (R244). -/
def chosenColumns (x : VW) (c : Core) (r : Nat) : List Nat :=
  (((List.range (c.cols .v)).filter fun k => (c.prow x.pred.val r).testBit k).foldl
    (insertRank (ranksBefore x.ty (c.vrow .v x.a.val r))) []).take (x.mod.val % 64 + 1)

/-- The condition of VCMP between the codes a and b (R235): a NaN makes ne and un true and the others false; -0 equals +0. -/
def conditionHolds (x : VW) (a b : Nat) : Bool :=
  if x.ty.isI = true then
    let a := codeInt x.ty a
    let b := codeInt x.ty b
    match x.sub.val with
    | 0 => decide (a = b) | 1 => decide (a ≠ b) | 2 => decide (a < b) | 3 => decide (a ≤ b) | 4 => decide (b < a) | _ => decide (b ≤ a)
  else
    let a := valOf x.ty a
    let b := valOf x.ty b
    if a.isNan = true ∨ b.isNan = true then x.sub == 1 || x.sub == 6
    else match x.sub.val with
      | 0 => a.same b | 1 => !a.same b | 2 => a.lt b | 3 => !b.lt a | 4 => b.lt a | 5 => !a.lt b | _ => false

/-- Lane (i, k) of accumulator j. -/
def accLane (c : Core) (j i k : Nat) : Nat := (c.acc.get 0 (1024 * j + 64 * i + k)).toNat

/-- The accumulator d of t after an instruction whose result at lane (i, k) is v i k: active lanes hold it, inactive ones their old
value, or 0 in zero mode, and every other lane of every accumulator is as before (R208, R210, R221). -/
def accHolds (x : VW) (u t : State) (v : Nat → Nat → Nat) : Prop :=
  ∀ j i k, i < 16 → k < 64 → accLane t.me j i k =
    if j = x.d.val ∧ i < u.me.rows .m ∧ k < u.me.cols .m then
      (if (u.me.prow x.pred.val i).testBit k then v i k else if x.z then 0 else accLane u.me j i k)
    else accLane u.me j i k

/-- Group p of the dot product at lane (i, c) of MMA x over the tile q (R199, R203, R205, R208): g elements of A with their scale, each
removed where it is filled, and g elements of B with theirs; E is 127 where a type has no scale. -/
def mmaGroup (x : VW) (u : State) (q : Tile) (i c p : Nat) : Nat :=
  let f := u.me.bfmt .m x.a.val
  let ta := fmtTy f
  let g := if x.ty.isMk then 32 else 4
  let as := ((q.rows.getD i []).drop (g * p)).take g
  let bs := ((u.columnCodes x.ty q.j q.n c).drop (g * p)).take g
  let slab := q.j + slabsPer x.ty * (32 * p / depthOf x.ty)
  let ea := if x.ty.isMk then ((scaleByteA f as).map (u.me.bankByte x.a.val)).getD 0 else 127
  let eb := if x.ty.isMk then ((u.slabScales slab).getD (16 * c + 32 * p % depthOf x.ty / 32) 0).toNat else 127
  (groupValue ea eb (List.zipWith (fun e b => (valOf ta (u.me.codeA x.a.val ta.width e), valOf x.ty b, e == .filled)) as bs)).1

/-- The result of MMA at lane (i, c): the sum of its groups in ascending order, added to the accumulator, each sum rounded (R200, R208). -/
def mmaLane (x : VW) (u : State) (q : Tile) (i c : Nat) : Nat :=
  let k := q.n * depthOf x.ty / (if x.ty.isMk then 32 else 4)
  let sums := (List.range (k - 1)).foldl (fun a p => (addF32 a (mmaGroup x u q i c (p + 1))).1) (mmaGroup x u q i c 0)
  (addF32 (accLane u.me x.d.val i c) sums).1

/-- The operands of MMA and MMAI pass the checks of R218, as R205 to R207 give them: the operand word and its slabs, the format of the bank
and the generator, and every A element of a valid row with its scale byte. -/
def operandsFit (u : State) (x : VW) : Prop :=
  let o := (u.me.getS .m x.c.val).toNat
  let n := o / 1024 % 1024 + 1
  let k0 := signed 32 (o / 2 ^ 20 % 2 ^ 32)
  let g := u.me.genAt x.b.val
  let f := u.me.bfmt .m x.a.val
  let w := (fmtTy f).width
  o / 2 ^ 52 = 0 ∧ o % 1024 + slabsPer x.ty * n ≤ 1024 ∧ g.unloaded = false ∧ g.width = w ∧
  (x.ty.isMk = true → (fmtTy f).isMk = true ∧ fmtScl f = 1 ∧ g.strideAt 0 = w ∧ ((g.base : Int) + k0 * w) % (32 * w) = 0 ∧
    g.strideAt 1 % (32 * w) = 0) ∧
  (x.ty.isMk = false → fmtScl f = 0 ∧
    (if x.ty.isF = true then fmtTy f = .bf16 ∨ fmtTy f = .f16 else fmtTy f = .i8 ∨ fmtTy f = .n8)) ∧
  ∀ i kk, i < u.me.rows .m → kk < n * depthOf x.ty → match g.elemA (k0 + kk) i with
    | .filled => True
    | .code bit => x.ty.isMk = true → 4 * fmtSofs f + bit / (32 * w) < 262144
    | _ => False

/-- The slabs that an MMA or MMAI reads are held at the bound unit, and none has a sector that its code finds wrong (R15, R216). -/
def slabsAtHome (u : State) (x : VW) : Prop :=
  let o := (u.me.getS .m x.c.val).toNat
  u.memory.check = [] ∧
  ∀ r, o % 1024 ≤ r → r < o % 1024 + slabsPer x.ty * (o / 1024 % 1024 + 1) → u.me.holder.get 0 r = 0

/-- A sum clamped to i32, as its code (R180). -/
def clampedCode (v : Int) : Nat := (BitVec.ofInt 32 (max (-2147483648) (min 2147483647 v))).toNat

/-- Byte k of the data image, and of the scale image, of slab j of the running core's weight store. -/
def slabByte (c : Core) (j k : Nat) : Byte := c.wst.get 0 (12288 * j + k)
def scaleByte (c : Core) (j k : Nat) : Byte := c.scl.get 0 (1024 * j + k)

/-- Engine e has retired an F or W instruction, and of its core nothing has changed but `fields`: the last argument is t's core with
the changed fields put back. -/
def retiredWith (e : Eng) (tk : Toks) (u t : State) (d : Core) : Prop :=
  u.retired t e tk ∧ t.me.fBar = (if e = .f then .idle else u.me.fBar) ∧ t.me.wBar = (if e = .w then .idle else u.me.wBar) ∧
  { d with pc := u.me.pc, pass := u.me.pass, fifo := u.me.fifo, popped := u.me.popped, wait := u.me.wait, fBar := u.me.fBar,
           wBar := u.me.wBar } = u.me ∧ u.onlyCoreAndAsks t

/-- The scalar result v stands in s[d] of the copy of e, as an update on its way to the other copies (R60); s0 takes nothing. -/
def scalarResult (e : Eng) (d : Reg) (u t : State) (v : Word) : Prop :=
  (∀ x (r : Reg), t.me.getS x r.val = if r = 0 then 0 else if x = e ∧ r = d then v else u.me.getS x r.val) ∧
  (d ≠ 0 → t.me.upds = u.me.upds ++ [⟨e, u.me.made.get e, d.val, v⟩] ∧ t.me.made = u.me.made.set e (u.me.made.get e + 1)) ∧
  (d = 0 → t.me.upds = u.me.upds ∧ t.me.made = u.me.made)

/-- t's core with scalars and updates put back. -/
def sansScalars (u t : State) : Core :=
  { t.me with scal := u.me.scal, upds := u.me.upds, made := u.me.made, known := u.me.known }

/-- t is w after F has brought elements with these values to their places in bank b: each place holds its value, every other bit of the
scratchpad is as before, and BCC has counted the waits (R143, R145). -/
def bankFilled (x : MW) (g : Gen) (es : List Elem1) (vals : List (Nat × Nat)) (w t : State) : Prop :=
  retiredWith .f x.tk w t { t.me with pad := w.me.pad, csr := w.me.csr } ∧
  (∀ p ∈ vals, t.me.bankBits x.d.val p.1 g.width = p.2 % 2 ^ g.width) ∧
  (∀ b, (∀ p ∈ vals, b < 2097152 * x.d.val + p.1 ∨ 2097152 * x.d.val + p.1 + g.width ≤ b) →
    (t.me.pad.get 0 (b / 8)).getLsbD (b % 8) = (w.me.pad.get 0 (b / 8)).getLsbD (b % 8)) ∧
  (∀ e k, k < 256 → t.me.getC e k = if e = .f ∧ k = 24 then
    BitVec.ofNat 64 (min 4294967295 ((w.me.getC .f 24).toNat + bankWaits g.width (es.map Elem1.place))) else w.me.getC e k)

/-- The memory after the stores of W: a bit that the last of its elements covers holds the element's bit, and every bit that no element covers
is as before (R142, R145). `segs` are the resolved bits of each element within its bounds, `vals` their values. -/
def elementsStored (u w : State) (segs : List (List Seg)) (vals : List Nat) : Prop :=
  (∀ b, (∀ gs ∈ segs, ∀ g ∈ gs, b < g.1 ∨ g.1 + g.2 ≤ b) → w.bitAt b = u.bitAt b) ∧
  ∀ pre g v post, vals.zip segs = pre ++ (v, [g]) :: post → ∀ b, g.1 ≤ b → b < g.1 + g.2 →
    (∀ z ∈ post, ∀ h ∈ z.2, b < h.1 ∨ h.1 + h.2 ≤ b) → w.bitAt b = v.testBit (b - g.1)

/-- Numbers of the physical registers that an attention instruction writes for its descriptor a (R338). -/
def attentionRegisters (x : MW) (a : Attn) (c : Core) (j : Nat) : Prop :=
  j = c.phys .f x.d.val ∨ (64 < a.dim ∧ j = c.phys .f (x.d.val + 1)) ∨ j = c.phys .f x.b.val

/-- A barrier reference without reserved bits and with its module in the domain, and one that names a barrier of this module (R159). -/
def validRef (u : State) (r : Word) : Prop := wField r 32 32 = 0 ∧ wField r 23 9 < wField (u.rootCsr 593) 0 9
def ownRef (u : State) (r : Word) : Prop := r.getLsbD 22 = false ∨ wField r 23 9 = wField (u.rootCsr 592) 0 9

/-- Byte p of memory holds byte o of what lies at these segments in turn, and none of the later ones covers it. -/
def imageByte (gs : List Seg) (o p : Nat) : Prop := ∃ pre g post, gs = pre ++ g :: post ∧ g.1 / 8 ≤ p ∧ p < g.1 / 8 + g.2 / 8 ∧
  o = (pre.map fun h => h.2 / 8).sum + (p - g.1 / 8) ∧ ∀ h ∈ post, p < h.1 / 8 ∨ h.1 / 8 + h.2 / 8 ≤ p

/-- The sectors of an open region (R126). -/
def inRegion (r : Shadow) (p : Nat) : Bool := r.ranges.any fun g => decide (g.1 ≤ p / 16 * 16) && decide (p / 16 * 16 < g.1 + g.2)

/-- Resolved bits of a range lie on this module, wherever its pages lead, and on no lost stack or die. -/
def State.rangeHere (u : State) (va bits : Nat) : Prop := ∀ gs, u.resolve .read [(va, bits)] = .ok [gs] → ∀ g ∈ gs, isRemote u g = false ∧ u.lostAt (g.1 / 8) = false

/-- What the nodes in use of a tree name, their token IDs and their page lists, lies on this module, and no reference count is full. -/
def treeHere (u : State) (tr : Tree) : Prop := ∀ i, (u.node tr i).used = true → (u.node tr i).ref < 2 ^ 32 - 1 ∧
  u.rangeHere (u.node tr i).toks (32 * u.segTokens tr) ∧ u.rangeHere (u.node tr i).kvl (32 * (u.node tr i).kvn)

/-- A deposit record y passes the checks of R346 and R349: the tree is created, the parent in use, and the pages of its list are in the pool
with room in their counts. -/
def depositFits (u : State) (y : Nat) : Prop :=
  let tr := treeAt u.me.part (field y 0 4)
  let parent := field y 64 64
  let toks := field y 128 64
  let kvl := field y 192 64
  let kvn := field y 256 64
  toks % 32 = 0 ∧ kvl % 32 = 0 ∧ field y 4 60 = 0 ∧ parent < 2 ^ 32 ∧ kvn ≤ 4096 ∧ field y 448 64 = 0 ∧ u.created tr = true ∧
  parent < u.nodeCap tr ∧ (u.node tr parent).used = true ∧
  (∃ ts ks, toks + 32 * u.segTokens tr ≤ 2 ^ 64 ∧ u.resolve .read [(toks, 32 * u.segTokens tr)] = .ok [ts] ∧ (∀ g ∈ ts, u.ordinary g) ∧
    kvl + 32 * kvn ≤ 2 ^ 64 ∧ u.resolve .read [(kvl, 32 * kvn)] = .ok [ks] ∧ ∀ g ∈ ks, u.ordinary g) ∧
  ∀ l w, u.load .read kvl (32 * kvn) = .ok (l, w) → ∀ q ∈ unpack 32 kvn l, q < u.pageCap tr ∧ u.pageCount tr q + 4096 < 2 ^ 32

/-- The event or instruction answers a next state, of which P holds. -/
def gives (i : Instr) (s : State) (P : State → Prop) : Prop := ∃ t, exec i s = .next t ∧ P t

/-- The flit with which a request over Berast is answered. -/
def reply (s : State) (x : Flit) (kind : Nat) (bs : List Byte) : Flit :=
  { x with kind := BitVec.ofNat 8 kind, vc := 1, dst := x.src, src := BitVec.ofNat 21 (s.rootCsr 592).toNat, rsv := 0
           payload := bs ++ List.replicate (112 - bs.length) 0 }

/-- The flit with which a message over an Oszin link is answered. -/
def oreply (x : OFlit) (kind : Nat) (slots fld : List Byte) : OFlit :=
  { x with kind := BitVec.ofNat 6 kind, rsv := 0, slots := padTo 40 slots, field := padTo 16 fld }

/-- Message x of stack k has been answered with a flit of this kind. -/
def oanswered (k : Fin 12) (x : OFlit) (kind : Nat) (slots fld : List Byte) (s t : State) : Prop :=
  t.edge.out = s.edge.out ++ [.oszin k.val (oreply x kind slots fld)]

/-- Only what the module has sent differs. -/
def onlySent (s t : State) : Prop := { t with edge := { t.edge with out := s.edge.out, tag := s.edge.tag } } = s

end Sys2Proof.Machine
end

