-- ==== Sys2Proof/Certificates/Slice0/Obligations.lean ====
section
/-! DEFINITION. The statements for the provers. Each says what its docstring says of every state and every operand. -/

open Sys2Proof Sys2Proof.Machine

/-- R71: The arithmetic, logic, shift, count and selection instructions on three registers, in every state: division by 0, -2^63 by -1, shift amounts above 63 and a destination s0 included. Only the destination changes, in the running engine's copy. The bit counts, the reversal and the carry-less products. -/
def Obligations.ThreeRegisterInstructionsWriteTheirResults : Prop :=
  (∀ (d a b : Reg) (cc : Cond),
  Computes (.add d a b) 1 d (fun s => s.rd a + s.rd b) ∧
  Computes (.sub d a b) 1 d (fun s => s.rd a - s.rd b) ∧
  Computes (.mul d a b) 1 d (fun s => s.rd a * s.rd b) ∧
  Computes (.mulh d a b) 1 d (fun s => ((s.rd a).signExtend 128 * (s.rd b).signExtend 128).extractLsb' 64 64) ∧
  Computes (.mulhU d a b) 1 d (fun s => ((s.rd a).setWidth 128 * (s.rd b).setWidth 128).extractLsb' 64 64) ∧
  Computes (.div d a b) 1 d (fun s => if s.rd b = 0 then BitVec.allOnes 64 else (s.rd a).sdiv (s.rd b)) ∧
  Computes (.divU d a b) 1 d (fun s => if s.rd b = 0 then BitVec.allOnes 64 else s.rd a / s.rd b) ∧
  Computes (.rem d a b) 1 d (fun s => if s.rd b = 0 then s.rd a else s.rd a - s.rd b * (s.rd a).sdiv (s.rd b)) ∧
  Computes (.remU d a b) 1 d (fun s => if s.rd b = 0 then s.rd a else s.rd a - s.rd b * (s.rd a / s.rd b)) ∧
  Computes (.and d a b) 1 d (fun s => s.rd a &&& s.rd b) ∧
  Computes (.or d a b) 1 d (fun s => s.rd a ||| s.rd b) ∧
  Computes (.xor d a b) 1 d (fun s => s.rd a ^^^ s.rd b) ∧
  Computes (.andn d a b) 1 d (fun s => s.rd a &&& ~~~(s.rd b)) ∧
  Computes (.shl d a b) 1 d (fun s => s.rd a <<< (s.rd b &&& 63#64)) ∧
  Computes (.shr d a b) 1 d (fun s => s.rd a >>> (s.rd b &&& 63#64)) ∧
  Computes (.shra d a b) 1 d (fun s => (s.rd a).sshiftRight (s.rd b &&& 63#64).toNat) ∧
  Computes (.rot d a b) 1 d (fun s => (s.rd a).rotateRight (s.rd b &&& 63#64).toNat) ∧
  Computes (.min d a b) 1 d (fun s => if (s.rd a).toInt ≤ (s.rd b).toInt then s.rd a else s.rd b) ∧
  Computes (.minU d a b) 1 d (fun s => if (s.rd a).toNat ≤ (s.rd b).toNat then s.rd a else s.rd b) ∧
  Computes (.max d a b) 1 d (fun s => if (s.rd b).toInt ≤ (s.rd a).toInt then s.rd a else s.rd b) ∧
  Computes (.maxU d a b) 1 d (fun s => if (s.rd b).toNat ≤ (s.rd a).toNat then s.rd a else s.rd b) ∧
  Computes (.cmp cc d a b) 1 d (fun s =>
    if (match cc with
      | .eq => decide (s.rd a = s.rd b) | .ne => decide (s.rd a ≠ s.rd b)
      | .lt => decide ((s.rd a).toInt < (s.rd b).toInt) | .ge => decide ((s.rd b).toInt ≤ (s.rd a).toInt)
      | .ltu => decide ((s.rd a).toNat < (s.rd b).toNat) | .geu => decide ((s.rd b).toNat ≤ (s.rd a).toNat)
      | .tst => decide (s.rd a &&& s.rd b ≠ 0)) then 1 else 0) ∧
  Computes (.sel d a b) 1 d (fun s => if s.rd d ≠ 0 then s.rd a else s.rd b)) ∧
  (∀ (d a b : Reg),
  Computes (.clz d a) 1 d (fun s => (s.rd a).clz) ∧
  Computes (.ctz d a) 1 d (fun s => (s.rd a).ctz) ∧
  Computes (.popc d a) 1 d (fun s => (s.rd a).cpop) ∧
  Computes (.brev d a) 1 d (fun s => (s.rd a).reverse) ∧
  Computes (.clmul d a b) 1 d (fun s =>
    (BitVec.ofBoolListLE ((List.range 64).map fun k => carryLessBit (s.rd a) (s.rd b) k)).setWidth 64) ∧
  Computes (.clmulHi d a b) 1 d (fun s =>
    (BitVec.ofBoolListLE ((List.range 64).map fun k => carryLessBit (s.rd a) (s.rd b) (64 + k))).setWidth 64))

/-- R72 to R75, R85: The instructions with an immediate, and NOP. The bit-pointer instructions, with the element width w of their width code. -/
def Obligations.ImmediateAndPointerInstructionsWriteTheirResults : Prop :=
  (∀ (d a : Reg) (i : BitVec 8) (n : Fin 64) (imm : BitVec 25),
  Computes (.sext d a n) 1 d (fun s => ((s.rd a).setWidth (n.val + 1)).signExtend 64) ∧
  Computes (.zext d a n) 1 d (fun s => ((s.rd a).setWidth (n.val + 1)).setWidth 64) ∧
  Computes (.addi d a i) 1 d (fun s => s.rd a + i.signExtend 64) ∧
  Computes (.andi d a i) 1 d (fun s => s.rd a &&& i.signExtend 64) ∧
  Computes (.ori d a i) 1 d (fun s => s.rd a ||| i.signExtend 64) ∧
  Computes (.xori d a i) 1 d (fun s => s.rd a ^^^ i.signExtend 64) ∧
  Computes (.shli d a n) 1 d (fun s => s.rd a <<< n.val) ∧
  Computes (.shri d a n) 1 d (fun s => s.rd a >>> n.val) ∧
  Computes (.shrai d a n) 1 d (fun s => (s.rd a).sshiftRight n.val) ∧
  Computes (.li d imm) 2 d (fun _ => imm.signExtend 64) ∧
  Computes (.lis d imm) 2 d (fun s => s.rd d * 33554432 + imm.setWidth 64) ∧
  Computes .nop 1 0 (fun _ => 0)) ∧
  (∀ (d a b : Reg) (n : Fin 64) (wc : WCode),
  let w : Nat := match wc with
    | .w1 => 1 | .w3 => 3 | .w4 => 4 | .w6 => 6 | .w8 => 8 | .w16 => 16 | .w32 => 32 | .w64 => 64
  Computes (.padd wc d a b) 1 d (fun s => s.rd a + s.rd b * BitVec.ofNat 64 w) ∧
  Computes (.pdiff wc d a b) 1 d (fun s => BitVec.ofInt 64 ((s.rd a - s.rd b).toInt / w)) ∧
  Computes (.paln d a n) 1 d (fun s => s.rd a >>> n.val <<< n.val) ∧
  Computes (.palnUp d a n) 1 d (fun s => (s.rd a + (1#64 <<< n.val - 1)) >>> n.val <<< n.val) ∧
  Computes (.btob d a) 1 d (fun s => s.rd a / 8) ∧
  Computes (.btobUp d a) 1 d (fun s => s.rd a / 8 + (if s.rd a % 8 = 0 then 0 else 1)) ∧
  Computes (.byte d a b) 1 d (fun s => s.rd a * 8 + s.rd b % 8))

/-- R76: PCHK writes the check word of an element of width w at bit address s[a] in a tensor whose base is s[b]: bit 0 for an aligned base and a whole number of elements from it, bits 1 and 2 for an element in two sectors or pages, bit 3 for an address past the virtual addresses in use, and 0 elsewhere. -/
def Obligations.PchkWritesTheCheckWord : Prop := ∀ (d a b : Reg) (wc : WCode),
  let w : Nat := match wc with
    | .w1 => 1 | .w3 => 3 | .w4 => 4 | .w6 => 6 | .w8 => 8 | .w16 => 16 | .w32 => 32 | .w64 => 64
  let al : Nat := if w = 3 ∨ w = 6 then 32 else w
  Computes (.pchk wc d a b) 1 d (fun s =>
    let x := (s.rd a).toNat
    (if (s.rd b).toNat % al = 0 ∧ (s.rd a - s.rd b).toInt % w = 0 then 1#64 else 0) |||
    (if x / 128 ≠ (x + w - 1) / 128 then 2#64 else 0) ||| (if x / 2 ^ 19 ≠ (x + w - 1) / 2 ^ 19 then 4#64 else 0) |||
    (if 2 ^ 58 ≤ x then 8#64 else 0))

/-- R77 to R79: Branches, calls, returns and counted loops; the pass count rises by the words of the instruction whether it is taken or not. RET to an address that is no multiple of 32 takes the branch-target fault and has no effect of its own. That LOOP with counter s0 is not taken is the model's reading (log 13, DEDUCED). -/
def Obligations.BranchesGoToTheirTargets : Prop :=
  (∀ (s : State) (cc : Cond) (d a n : Reg) (imm : BitVec 25),
  let pc := s.me.pc.get s.eng
  (∃ t, exec (.br imm) s = .next t ∧ s.didX t 2 (branchTarget s imm) 0 0) ∧
  (∃ t, exec (.brc cc d a imm) s = .next t ∧
    s.didX t 2 (if Cond.holds cc (s.rd d) (s.rd a) then branchTarget s imm else pc + 64) 0 0) ∧
  (∃ t, exec (.call d imm) s = .next t ∧ s.didX t 2 (branchTarget s imm) d (pc + 64)) ∧
  (∃ t, exec (.loop d imm) s = .next t ∧
    s.didX t 2 (if d ≠ 0 ∧ s.rd d ≠ 1 then branchTarget s imm else pc + 64) d (s.rd d - 1)) ∧
  ((s.rd n).toNat % 32 = 0 → ∃ t, exec (.ret n) s = .next t ∧ s.didX t 1 (s.rd n) 0 0)) ∧
  (∀ (s : State) (n : Reg), (s.rd n).toNat % 32 ≠ 0 →
  exec (.ret n) s = .next (s.takeFault s.cur s.eng (mkTrap .branchTarget (s.rd n))))

/-- R81: LOOPK, whose word has OP 0x06 and zeros in d, a and aux. LC, EC and RRB are CSRs 19, 20 and 18 of the running engine's copy; V alone shifts the stage predicates. -/
def Obligations.LoopkAdvancesThePipelinedLoop : Prop := ∀ (s : State) (imm : BitVec 25),
  let c := s.me
  let lc := c.getC s.eng 19
  let ec := c.getC s.eng 20
  decodeWords (2 ^ 24 + 6 * 2 ^ 18) (6 * 2 ^ 25 + imm.toNat) = .ok (.loopk imm) ∧
  (∀ low, 0 < low → low < 2 ^ 18 → decodeWords (2 ^ 24 + 6 * 2 ^ 18 + low) (6 * 2 ^ 25 + imm.toNat) = .error .reservedField) ∧
  ∃ t, exec (.loopk imm) s = .next t ∧
    c.movedOn t.me s.eng (if lc ≠ 0 ∨ 1 < ec.toNat then branchTarget s imm else c.pc.get s.eng + 64) 2 ∧
    t.me.getC s.eng 19 = (if lc ≠ 0 then lc - 1 else lc) ∧
    t.me.getC s.eng 20 = (if lc ≠ 0 then ec else if 1 < ec.toNat then ec - 1 else 0) ∧
    t.me.getC s.eng 18 = (c.getC s.eng 18 - 1) &&& 15 ∧
    (∀ e k, k < 256 → (e ≠ s.eng ∨ (k ≠ 18 ∧ k ≠ 19 ∧ k ≠ 20)) → t.me.getC e k = c.getC e k) ∧
    (∀ p i, p < 16 → i < 16 → t.me.prow p i =
      if s.eng ≠ .v ∨ p < 8 then c.prow p i
      else if p = 8 then (if lc ≠ 0 then 2 ^ 64 - 1 else 0) else c.prow (p - 1) i) ∧
    { t.me with pc := c.pc, pass := c.pass, csr := c.csr, pred := c.pred } = c ∧ s.onlyCore t

/-- R65, R68, R396, R397, R418, R423, R440: CSRW, CSRS and CSRC write the running engine's copy of a tile-mode CSR whose new value its layout allows, CSRR reads it (and the launch words and report words), FLTR reads a report word and FLTR.clr clears the three. Outside a replay CSRR of CCNT, SCLK or TOKS writes the cycle count, the cycles since the last release, or the counts of the eight FIFOs, four bits each, to s[d]; the value goes into the result log of a task that has one. In the firmware modes CSRW of a control-mode CSR without an action of its own leaves the value in the core's own set, where CSRR reads it; a write of RTAB or RTABN may have the Creamer look at the records. In root mode CSRW of a root CSR without an action of its own, of a key that no other partition holds, or of RFRQH while no record waits for the root queue leaves the value there, for every core that reads it, and changes nothing else but the boot steps that root firmware ends; CTLC also starts the core it names and takes the partition from the one it named, here where their firmware has nothing under way. One set of root CSRs for every core, a set of control-mode CSRs of the root core, and what CTLC starts are the model's reading (log 11); which writes end the last boot steps is its choice (log 4). -/
def Obligations.CsrInstructionsReadAndWriteTheirOwnCopy : Prop :=
  (∀ (s : State) (r d : Reg) (n : Fin 4096) (k : Fin 3),
  let old := s.me.getC s.eng n.val
  let pc := s.me.pc.get s.eng
  (writableTileCsr n.val → csrFieldsOk n.val (s.rd r) = true → ∃ t, exec (.csrw r n) s = .next t ∧ s.didCsr t n.val (s.rd r)) ∧
  (writableTileCsr n.val → csrFieldsOk n.val (old ||| s.rd r) = true →
    ∃ t, exec (.csrs r n) s = .next t ∧ s.didCsr t n.val (old ||| s.rd r)) ∧
  (writableTileCsr n.val → csrFieldsOk n.val (old &&& ~~~(s.rd r)) = true →
    ∃ t, exec (.csrc r n) s = .next t ∧ s.didCsr t n.val (old &&& ~~~(s.rd r))) ∧
  (writableTileCsr n.val ∨ n.val ≤ 4 ∨ (64 ≤ n.val ∧ n.val ≤ 66) → ∃ t, exec (.csrr d n) s = .next t ∧ s.didX t 1 (pc + 32) d old) ∧
  (∃ t, exec (.fltr d k) s = .next t ∧ s.didX t 1 (pc + 32) d (s.me.getC s.eng (64 + k.val))) ∧
  (∃ t, exec (.fltrClr d k) s = .next t ∧ s.me.movedOn t.me s.eng (pc + 32) 1 ∧
    (∀ e (q : Reg), t.me.getS e q.val =
      if q = 0 then 0 else if e = s.eng ∧ q = d then s.me.getC s.eng (64 + k.val) else s.me.getS e q.val) ∧
    (∀ e j, j < 256 → t.me.getC e j = if e = s.eng ∧ 64 ≤ j ∧ j ≤ 66 then 0 else s.me.getC e j) ∧
    { t.me with pc := s.me.pc, pass := s.me.pass, scal := s.me.scal, csr := s.me.csr } = s.me ∧ s.onlyCore t)) ∧
  (∀ (s : State) (d : Reg), s.logNext = .act →
  let pc := s.me.pc.get s.eng
  let reads (n : Fin 4096) (v : Word) : Prop := ∃ t, exec (.csrr d n) s = .next t ∧ (s.logPut v).didX t 1 (pc + 32) d v
  reads 5 s.ccnt ∧
  reads 6 (match s.taskOf s.cur with | some (_, _, l) => s.ccnt - l.released | none => s.ccnt) ∧
  (∀ v : Word, (∀ k, k < 8 → v.toNat / 16 ^ k % 16 = (s.me.tokens k).length % 16) → v.toNat < 2 ^ 32 → reads 48 v)) ∧
  (∀ (s : State) (r : Reg) (n : Fin 4096), s.me.mode ≠ .tile → csrFieldsOk n.val (s.rd r) = true →
  (257 ≤ n.val ∧ n.val ≤ 260) ∨ (272 ≤ n.val ∧ n.val ≤ 277) ∨ n.val = 280 ∨ n.val = 281 →
  (n.val = 280 → s.cur = rootId ∨ s.ownsDram s.me.part (s.rd r).toNat = true) →
  ∃ t, exec (.csrw r n) s = .next t ∧ s.me.movedOn t.me s.eng (s.me.pc.get s.eng + 32) 1 ∧
    (∀ k j, j < 4096 → t.ctl k j = if k = s.csrSet ∧ j = n.val then s.rd r else s.ctl k j) ∧
    { t.me with pc := s.me.pc, pass := s.me.pass } = s.me ∧ s.sameOthers t ∧ (n.val ≠ 272 → n.val ≠ 273 → t.agenda = s.agenda) ∧
    { t with cores := s.cores, edge := { t.edge with ctlCsr := s.edge.ctlCsr }, agenda := s.agenda } = s ∧
    ∀ (d : Reg) u, u.me.mode ≠ .tile → u.csrSet = s.csrSet → u.edge = t.edge →
      ∃ w, exec (.csrr d n) u = .next w ∧ u.didX w 1 (u.me.pc.get u.eng + 32) d (s.rd r)) ∧
  (∀ (s : State) (r : Reg) (n : Fin 4096), s.me.mode = .root → csrFieldsOk n.val (s.rd r) = true →
  let plain := (512 ≤ n.val ∧ n.val ≤ 515) ∨ (544 ≤ n.val ∧ n.val ≤ 559) ∨ n.val = 576 ∨ (592 ≤ n.val ∧ n.val ≤ 595) ∨ n.val = 597
  let key := 608 ≤ n.val ∧ n.val ≤ 623
  let taken := (s.rd r).getLsbD 16 = true ∧ ∃ p, p < 16 ∧ 608 + p ≠ n.val ∧ (s.rootCsr (608 + p)).getLsbD 16 = true ∧
    wField (s.rootCsr (608 + p)) 0 16 = wField (s.rd r) 0 16
  let reads (t : State) : Prop := ∀ (d : Reg) u, u.me.mode = .root → u.edge = t.edge →
    ∃ w, exec (.csrr d n) u = .next w ∧ u.didX w 1 (u.me.pc.get u.eng + 32) d (s.rd r)
  let goesOn (t : State) : Prop := s.me.movedOn t.me s.eng (s.me.pc.get s.eng + 32) 1 ∧
    { t.me with pc := s.me.pc, pass := s.me.pass } = s.me
  (plain ∨ (key ∧ ¬taken) ∨ (n.val = 577 ∧ ∀ x ∈ s.edge.records, x.root = false) →
    ∃ t, exec (.csrw r n) s = .next t ∧ goesOn t ∧ s.sameOthers t ∧ reads t ∧
      (∀ j, t.rootCsr j = if j = n.val then s.rd r else s.rootCsr j) ∧
      { t with cores := s.cores, edge := { t.edge with rootCsr := s.edge.rootCsr, pfStatus := s.edge.pfStatus } } = s ∧
      (wField s.edge.pfStatus 4 4 ≠ 5 → wField s.edge.pfStatus 4 4 ≠ 6 → t.edge.pfStatus = s.edge.pfStatus)) ∧
  (key → taken → exec (.csrw r n) s = .next (s.takeFault s.cur s.eng (mkTrap .csrValue (BitVec.ofNat 64 n.val) (s.rd r)))) ∧
  (560 ≤ n.val → n.val ≤ 575 →
    let old := s.rootCsr n.val
    let before := 768 + wField old 0 5
    let core := 768 + wField (s.rd r) 0 5
    (s.rd r = old → ∃ t, exec (.csrw r n) s = .next t ∧ goesOn t ∧ s.sameOthers t ∧ reads t) ∧
    (s.rd r ≠ old → s.cur ≠ before → s.cur ≠ core → s.firmwareQuiet before → s.firmwareQuiet core → ∃ t, exec (.csrw r n) s = .next t ∧ goesOn t ∧ reads t ∧
      (∀ j, t.rootCsr j = if j = n.val then s.rd r else s.rootCsr j) ∧
      { t.memory with shadows := s.memory.shadows, shadowData := s.memory.shadowData, arrivals := s.memory.arrivals, oldText := s.memory.oldText } = s.memory ∧
      (∀ k, k ≠ s.cur → k ≠ before → k ≠ core → t.core k = s.core k) ∧
      (old.getLsbD 8 = true → core ≠ before ∨ (s.rd r).getLsbD 8 = false → (t.core before).owner = none) ∧
      ((s.rd r).getLsbD 8 = true → t.core core = { Core.rootReset with
        mode := .control, part := n.val - 560, owner := some ((1024 + wField (s.rd r) 0 5) * 256) }))))

/-- R68, R69, R412: A new value with a reserved bit or a reserved value in a field takes the CSR-value fault with the number and the value, and writes nothing. What each mode makes of a CSR number that is not one of its own: a reserved value under check 7, or a privilege fault; and a write of a read-only tile-mode CSR is refused as a reserved value. -/
def Obligations.BadCsrValuesAndNumbersFault : Prop :=
  (∀ (s : State) (r : Reg) (n : Fin 4096) (v : Word), writableTileCsr n.val →
  csrFieldsOk n.val v = false →
  let faulted := Host.Outcome.next (s.takeFault s.cur s.eng (mkTrap .csrValue (BitVec.ofNat 64 n.val) v))
  (s.rd r = v → exec (.csrw r n) s = faulted) ∧
  (s.me.getC s.eng n.val ||| s.rd r = v → exec (.csrs r n) s = faulted) ∧
  (s.me.getC s.eng n.val &&& ~~~(s.rd r) = v → exec (.csrc r n) s = faulted)) ∧
  (∀ (s : State) (r : Reg) (n : Fin 4096) (i : Instr),
  i = .csrr r n ∨ i = .csrw r n ∨ i = .csrs r n ∨ i = .csrc r n →
  let reserved := exec i s = .next (s.takeFault s.cur s.eng { mkTrap .illegal with sub := 7 })
  let privilege := exec i s = .next (s.takeFault s.cur s.eng (mkTrap .privilege (BitVec.ofNat 64 n.val)))
  (s.me.mode = .tile → n.val < 256 → ¬listedTile n.val → reserved) ∧
  (s.me.mode = .tile → 256 ≤ n.val → privilege) ∧
  (s.me.mode = .control → n.val < 512 → ¬listedTile n.val → ¬listedControl n.val → reserved) ∧
  (s.me.mode = .control → 512 ≤ n.val → privilege) ∧
  (s.me.mode = .root → ¬listedTile n.val → ¬listedControl n.val → ¬listedRoot n.val → reserved) ∧
  (i ≠ .csrr r n → n.val ≤ 6 ∨ n.val = 48 ∨ (64 ≤ n.val ∧ n.val ≤ 66) → reserved))

/-- R62, R83, R84, R120, R389, R413: An engine that reaches a meeting word while another engine has reached none stands there, and nothing else changes; END alone has counted its own word as passed, which is the model's reading (log 13, DEDUCED). The fourth engine to reach HOP with equal pass counts, where no hand-over or forced demotion is pending and the HOP places no report, resolves the meeting: every copy has every update, all four engines pass the HOP, and the task has passed one HOP more of its superstep. The fourth engine to reach STEP with equal pass counts brings the task to the chip barrier. The last task of the launch to arrive starts the communication step. The fourth engine to stop at END, whatever the pass counts, finishes the task: its tokens and pending updates are gone, and its role counts as ended at the chip barrier. Where all four engines stand at meeting words, whichever words they are, and no meeting of R84 or R413 holds, the lowest-numbered engine that has not stopped at END, which R389 names, takes a meeting fault; a tile task stops. -/
def Obligations.EnginesMeet : Prop :=
  (∀ (s : State) (n : BitVec 8) (i : Instr) (w : Wait),
  (∃ e, e ≠ s.eng ∧ s.me.wait.get e ≠ .ended ∧ ∀ o, s.me.wait.get e ≠ .meet o) →
  (i = .hop ∧ w = .meet 43) ∨ (i = .step ∧ w = .meet 44) ∨ (i = .endTask ∧ w = .ended) ∨
    (s.me.mode ≠ .tile ∧ i = .sysc n ∧ w = .meet (48 + 256 * n.toNat)) ∨ (s.me.mode ≠ .tile ∧ i = .eret ∧ w = .meet 49) ∨
    (s.me.mode ≠ .tile ∧ i = .halt ∧ w = .meet 51) →
  ∃ t, exec i s = .next t ∧ t.me.wait = s.me.wait.set s.eng w ∧
    { t.me with wait := s.me.wait, pass := s.me.pass } = s.me ∧
    (∀ e, t.me.pass.get e = if i = .endTask ∧ e = s.eng then s.me.pass.get e + 1 else s.me.pass.get e) ∧ s.onlyCore t) ∧
  (∀ (s : State) (t : TaskId) (x : Task) (l : Launch),
  s.taskOf s.cur = some (t, x, l) → x.core = s.cur → othersStandAt s (.meet 43) → equalPassCounts s →
  l.fdem.get 0 x.role = 0 → l.pbind.get 0 x.role = 0 → l.copying x.role = false → x.hops.getD x.hop x.reports = [] →
  ∃ u, exec .hop s = .next u ∧
    (∀ e, u.me.pc.get e = s.me.pc.get e + 32 ∧ u.me.pass.get e = s.me.pass.get e + 1 ∧ u.me.wait.get e = .run) ∧
    { u.me with pc := s.me.pc, pass := s.me.pass, wait := s.me.wait } = { metAt s (.meet 43) with wait := s.me.wait } ∧
    { u with cores := s.cores, sched := { u.sched with tasks := s.sched.tasks } } = s ∧ s.sameOthers u ∧ s.sameBytes u ∧
    ∃ y, u.task t = some y ∧ y.hop = x.hop + 1 ∧ { y with hops := x.hops, hop := x.hop } = x ∧ (∀ v, v ≠ t → u.task v = s.task v)) ∧
  (∀ (s : State) (t : TaskId) (x : Task) (l : Launch),
  s.taskOf s.cur = some (t, x, l) → othersStandAt s (.meet 44) → equalPassCounts s →
  ∃ u m, exec .step s = .next u ∧ u.launch x.launch = some m ∧
    (∀ r, r ∈ m.arrived ↔ r = x.role ∨ r ∈ l.arrived) ∧ m.ended = l.ended ∧
    { u.me with wait := s.me.wait } = s.me ∧ (∀ e, u.me.wait.get e = .meet 44) ∧ s.sameOthers u ∧ s.sameBytes u ∧
    (if m.arrived.length + l.ended.length < l.n then m.phase = l.phase ∧ u.agenda = s.agenda
     else m.phase = .comm ∧ u.agenda = s.agenda ++ [(some (.communicationStep x.launch), s.cur, s.eng)])) ∧
  (∀ (s : State) (t : TaskId) (x : Task) (l : Launch),
  s.taskOf s.cur = some (t, x, l) → othersStandAt s .ended → x.ring = none →
  ∃ u m, exec .endTask s = .next u ∧ u.launch x.launch = some m ∧ (∀ r, r ∈ m.ended ↔ r = x.role ∨ r ∈ l.ended) ∧
    m.arrived = l.arrived ∧ (∀ e, u.me.wait.get e = .ended) ∧ (∀ q, u.me.tokens q = []) ∧ u.me.upds = [] ∧
    u.me.pc = s.me.pc ∧ (∀ e r, u.me.getS e r = s.me.getS e r) ∧ s.sameOthers u ∧ s.sameBytes u ∧
    (if l.arrived.length + m.ended.length < l.n then m.phase = l.phase
     else m.phase = .comm ∧ u.agenda = s.agenda ++ [(some (.communicationStep x.launch), s.cur, s.eng)])) ∧
  (∀ (s : State) (t : TaskId) (x : Task) (l : Launch) (i : Instr) (w : Wait),
  s.taskOf s.cur = some (t, x, l) →
  (i = .hop ∧ w = .meet 43) ∨ (i = .step ∧ w = .meet 44) ∨ (i = .endTask ∧ w = .ended) ∨ (s.me.mode ≠ .tile ∧
    ((∃ n : BitVec 8, i = .sysc n ∧ w = .meet (48 + 256 * n.toNat)) ∨ (i = .eret ∧ w = .meet 49) ∨ (i = .halt ∧ w = .meet 51))) →
  (∀ e, e ≠ s.eng → s.me.wait.get e = .ended ∨ ∃ o, s.me.wait.get e = .meet o) →
  let c := { s.me with
    wait := s.me.wait.set s.eng w, pass := if i = .endTask then s.me.pass.set s.eng (s.me.pass.get s.eng + 1) else s.me.pass }
  let stand (op : Nat) : Prop := ∀ e, ∃ o, c.wait.get e = .meet o ∧ o % 256 = op
  (∃ e, c.wait.get e ≠ .ended) →
  (∃ e, c.pass.get e ≠ c.pass.f) ∨ ¬(stand 43 ∨ stand 44 ∨ stand 48 ∨ stand 49 ∨ stand 51) →
  ∃ e, c.wait.get e ≠ .ended ∧ (∀ y, y.num < e.num → c.wait.get y = .ended) ∧
    exec i s = .next ((s.setMe c).takeFault s.cur e (mkTrap .meeting))) ∧
  (∀ (s : State) (t : TaskId) (x : Task) (l : Launch),
  s.taskOf s.cur = some (t, x, l) →
  othersStandAt s (.meet 44) ∨ othersStandAt s .ended ∨ (othersStandAt s (.meet 43) ∧ ¬equalPassCounts s) →
  s.me.mode = .tile → s.me.stopped = none → s.cur < 768 →
  ∃ u, exec .hop s = .next u ∧ u.me.stopped = some 4 ∧ ∀ e, u.me.pc.get e = s.me.pc.get e)

/-- R42, R85, R412, R417: In a tile task TRAP and SYSC stop the task with a record of class 5 or 44. The engine's program counter stands after the word; no other register, and no pass count, changes; that the word is not counted as passed is the model's reading of R85 and R417 against R31 (log 13, DEDUCED). In a tile task a privileged instruction takes the privilege fault. -/
def Obligations.TrapsAndPrivilege : Prop :=
  (∀ (s : State) (n : BitVec 8), s.me.mode = .tile → s.me.stopped = none →
  s.cur < 768 →
  let stops (i : Instr) (cls : Nat) : Prop := ∃ t, exec i s = .next t ∧
    (∀ e, t.me.pc.get e = if e = s.eng then s.me.pc.get e + 32 else s.me.pc.get e) ∧
    s.me.stoppedAs { t.me with pc := s.me.pc } cls
  stops (.trap n) 5 ∧ stops (.sysc n) 44) ∧
  (∀ (s : State) (d a b : Reg) (i : Instr), s.me.mode = .tile →
  i ∈ [Instr.eret, .halt, .ctxsv d a b, .ctxrs d a b, .xlinv d a b] →
  exec i s = .next (s.takeFault s.cur s.eng (mkTrap .privilege)))

/-- R414, R415: An entry into root mode or into control mode while EX of that mode is 0. A fault, or an entry, while EX of control mode is 1 enters root mode with cause 0xFE; while EX of root mode is 1 it stops the root core, and the hub reports a root failure. The codes of the saved mode (PRESUMED) and one set of root CSRs for every core (DEDUCED) are log 11's. -/
def Obligations.ExceptionsEnterTheirMode : Prop :=
  (∀ (s : State) (k : CoreId) (cause cls sub : Nat) (value resume : Word),
  (s.exBit k .root = false →
    let t := s.enterRoot k cause value resume
    t.rootCsr 513 = resume ∧ t.rootCsr 515 = value ∧ wField (t.rootCsr 514) 0 12 = cause % 4096 ∧ t.exBit k .root = true ∧
    wField (t.rootCsr 514) 13 2 = (match (s.core k).mode with | .tile => 0 | .control => 1 | .root => 2) ∧
    wField (t.rootCsr 514) 16 4 = (s.core k).part % 16 ∧ (∀ j, j ≠ 513 → j ≠ 514 → j ≠ 515 → t.rootCsr j = s.rootCsr j) ∧
    (∀ e, (t.core k).pc.get e = s.rootCsr 512) ∧ (t.core k).mode = .root ∧ (t.core k).pass = (s.core k).pass ∧
    (t.core k).scal = (s.core k).scal ∧ (∀ j, j ≠ k → t.core j = s.core j) ∧ s.sameBytes t) ∧
  (s.exBit k .control = false →
    let t := s.enterControl k cls sub value resume
    let n := k - 768
    t.ctl n 258 = resume ∧ t.ctl n 260 = value ∧ wField (t.ctl n 259) 0 8 = cls % 256 ∧ wField (t.ctl n 259) 8 8 = sub % 256 ∧
    t.exBit k .control = true ∧ (∀ j, j ≠ 258 → j ≠ 259 → j ≠ 260 → j < 4096 → t.ctl n j = s.ctl n j) ∧
    (∀ e, (t.core k).pc.get e = s.ctl n 257) ∧ (t.core k).mode = .control ∧ (t.core k).pass = (s.core k).pass ∧
    (t.core k).scal = (s.core k).scal ∧ (∀ j, j ≠ k → t.core j = s.core j) ∧ s.sameBytes t)) ∧
  (∀ (s : State) (k : CoreId) (cause cls sub : Nat) (value resume : Word),
  (s.exBit k .control = true → s.enterControl k cls sub value resume = s.enterRoot k 254 value resume) ∧
  (s.exBit k .root = true →
    let t := s.enterRoot k cause value resume
    t.edge.rootStopped = true ∧ t.edge.pfStatus.getLsbD 2 = true ∧ t.cores = s.cores ∧ t.runnable rootId = false))

/-- R413, R414, R417, R419: The fourth engine to reach ERET with equal pass counts returns from the exception: EX falls, every engine has executed the word and goes on at the saved address, and from root mode the saved mode and partition come back. The fourth engine to reach SYSC n in a firmware mode enters root mode, from control mode with cause 0x100 + n and from root mode with 0x200 + n; the value is s1 of F's copy once every copy has its updates, the saved address follows the word, and every engine has executed it. The fourth engine to reach HALT passes at once where a wake event has been kept for the core or for the record queue of its mode, and else all four wait for one. That an executed ERET and SYSC count as passed is log 13's reading (DEDUCED); the codes of the saved mode (PRESUMED), one set of root CSRs and the queue of a mode (DEDUCED) are log 11's. -/
def Obligations.FirmwareReturnsCallsAndHalts : Prop :=
  (∀ (s : State) (t : TaskId) (x : Task) (l : Launch),
  s.taskOf s.cur = some (t, x, l) → othersStandAt s (.meet 49) → equalPassCounts s →
  (s.me.mode = .root → ∃ u, exec .eret s = .next u ∧ u.exBit s.cur .root = false ∧
    (∀ e, u.me.pc.get e = s.rootCsr 513 ∧ u.me.wait.get e = .run) ∧
    u.me.mode = (match wField (s.rootCsr 514) 13 2 with | 0 => .tile | 1 => .control | _ => .root) ∧
    u.me.part = wField (s.rootCsr 514) 16 4 ∧ (∀ e, u.me.pass.get e = s.me.pass.get e + 1) ∧ s.sameOthers u ∧ s.sameBytes u) ∧
  (s.me.mode = .control → ∃ u, exec .eret s = .next u ∧ u.exBit s.cur .control = false ∧
    (∀ e, u.me.pc.get e = s.ctl (s.cur - 768) 258 ∧ u.me.wait.get e = .run) ∧ u.me.mode = .control ∧
    u.me.part = s.me.part ∧ (∀ e, u.me.pass.get e = s.me.pass.get e + 1) ∧ s.sameOthers u ∧ s.sameBytes u)) ∧
  (∀ (s : State) (t : TaskId) (x : Task) (l : Launch) (n : BitVec 8),
  s.taskOf s.cur = some (t, x, l) → othersStandAt s (.meet (48 + 256 * n.toNat)) → equalPassCounts s → s.me.mode ≠ .tile →
  let met := metAt s (.meet (48 + 256 * n.toNat))
  let c := { met with pass := met.pass.map (· + 1) }
  exec (.sysc n) s = .next ((s.setMe c).enterRoot s.cur ((if s.me.mode = .control then 256 else 512) + n.toNat) (c.getS .f 1)
    (s.me.pc.f + 32))) ∧
  (∀ (s : State) (t : TaskId) (x : Task) (l : Launch),
  s.taskOf s.cur = some (t, x, l) → othersStandAt s (.meet 51) → equalPassCounts s → s.me.mode ≠ .tile →
  ∃ u, exec .halt s = .next u ∧ (∀ e r, u.me.getS e r = (metAt s (.meet 51)).getS e r) ∧ s.sameOthers u ∧ s.sameBytes u ∧
    let mine := [s.cur, queueWake (s.queueOf s.cur)]
    ((∃ k ∈ mine, k ∈ s.edge.wakes) → (∀ k ∈ mine, k ∉ u.edge.wakes) ∧
      ∀ e, u.me.pc.get e = s.me.pc.get e + 32 ∧ u.me.pass.get e = s.me.pass.get e + 1 ∧ u.me.wait.get e = .run) ∧
    ((∀ k ∈ mine, k ∉ s.edge.wakes) → u.me.pc = s.me.pc ∧ u.me.pass = s.me.pass ∧ (∀ e, u.me.wait.get e = .meet 51) ∧
      ∀ v, v = u.wake s.cur ∨ v = u.wakeQueue (s.queueOf s.cur) →
        ∀ e, v.me.pc.get e = s.me.pc.get e + 32 ∧ v.me.pass.get e = s.me.pass.get e + 1 ∧ v.me.wait.get e = .run))

/-- R86, R87, R288: Outside a replay BINDQ of a role below n writes the binding entry that the launch holds for it, zero-extended, and a role of n or more takes the role fault and writes nothing. Outside a replay TIERQ never faults: it writes bits [8:0] of the STATE word of the object that contains the address, or 0 where the address is unmapped or lies in no object, so every bit above bit 8 is 0; the record it reads is cleared and scrubbed as by any read. That the role fault's record holds s[a] is log 16 (DEDUCED). -/
def Obligations.BindingsAndResidencyAreRead : Prop :=
  (∀ (s : State) (d a : Reg) (t : TaskId) (x : Task) (l : Launch),
  s.taskOf s.cur = some (t, x, l) → s.logNext = .act →
  let r := (s.rd a).toNat
  (r < l.n → ∃ u, exec (.bindq d a) s = .next u ∧
    (s.logPut (l.table.getD r 0)).didX u 2 (s.me.pc.get s.eng + 64) d (l.table.getD r 0)) ∧
  (l.n ≤ r → exec (.bindq d a) s = .next (s.takeFault s.cur s.eng (mkTrap .role (s.rd a))))) ∧
  (∀ (s : State) (d a : Reg), s.logNext = .act →
  let w := s.tookRecord (s.rd a).toNat
  (s.plain → w = s) ∧
  ∃ u v, exec (.tierq d a) s = .next u ∧ (w.logPut v).didX u 2 (s.me.pc.get s.eng + 64) d v ∧
    (s.objectAt s.me.part (s.rd a).toNat = none → v = 0) ∧
    ((∃ c, s.pageOf s.me.mode s.me.part ((s.rd a).toNat / 524288) .none = .error c) → v = 0) ∧
    (∀ b o r, s.pageOf s.me.mode s.me.part ((s.rd a).toNat / 524288) .none = .ok b →
      s.objectAt s.me.part (s.rd a).toNat = some (o, r) → v = BitVec.ofNat 64 (s.objectState s.me.part r)))

/-- R420: In a firmware mode CTXSV and CTXRS name a unit by a binding entry; one that breaks R17 or, in control mode, names a unit of another partition takes the privilege fault. The image is 32 MiB at a multiple of 64 KiB, on pages that the caller reaches, here in ordinary DRAM outside shadow regions. A unit that runs a task (for CTXRS: one that is bound at all) gives 1 in s[d] and nothing else. An idle one, or for CTXSV one whose task has stopped, gives 0: CTXSV, of a unit without an uncorrectable word, leaves the unit's scratchpad and weight store at their offsets in the image and changes no byte outside it; CTXRS brings them from there, writes no memory, and leaves the unit's program counters, scalars, FIFOs and binding. That the privilege is checked before the other operands is log 13 (DEDUCED), and that the fault's record holds s[a] is log 16 (DEDUCED). -/
def Obligations.ContextSaveAndRestore : Prop :=
  (∀ (s : State) (d a b : Reg), s.me.mode ≠ .tile →
  2 ^ 32 ≤ (s.rd a).toNat ∨ entOk (s.rd a).toNat = false ∨ (s.me.mode = .control ∧ s.ownsUnit s.me.part (entCore (s.rd a).toNat) = false) →
  exec (.ctxsv d a b) s = .next (s.takeFault s.cur s.eng (mkTrap .privilege (s.rd a))) ∧
  exec (.ctxrs d a b) s = .next (s.takeFault s.cur s.eng (mkTrap .privilege (s.rd a)))) ∧
  (∀ (s : State) (d a b : Reg) (k : CoreId) (n : Need) (gs : List Seg), s.me.mode ≠ .tile → k ≠ s.cur →
  (s.rd a).toNat < 2 ^ 32 → entOk (s.rd a).toNat = true → entCore (s.rd a).toNat = k →
  (s.me.mode = .control → s.ownsUnit s.me.part k = true) → (s.rd b).toNat % 65536 = 0 → (s.rd b).toNat < 2 ^ 61 →
  s.resolve n [(8 * (s.rd b).toNat, 8 * 33554432)] = .ok [gs] → s.plain → s.memory.shadows = [] → s.edge.ctx = [] →
  (∀ g ∈ gs, s.ordinary g ∧ s.region (g.1 / 8) = .dram) →
  let pc := s.me.pc.get s.eng + 64
  let c := s.core k
  (n = .write → c.owner.isSome = true → c.stopped = none → ∃ t, exec (.ctxsv d a b) s = .next t ∧ s.didX t 2 pc d 1) ∧
  (n = .write → (c.owner = none ∨ c.stopped.isSome = true) → (∀ x ∈ s.edge.sramErr, x.2.2 = true) → ∃ t, exec (.ctxsv d a b) s = .next t ∧ s.me.movedOn t.me s.eng pc 2 ∧
    t.me.getS s.eng d.val = 0 ∧ (∀ p, (∀ g ∈ gs, p < g.1 / 8 ∨ g.1 / 8 + g.2 / 8 ≤ p) → t.byteAt p = s.byteAt p) ∧
    (∀ o p, imageByte gs o p → o < 4194304 → t.byteAt p = c.pad.get 0 o) ∧
    (c.holder = [] → (∀ x ∈ c.pad, x.1 < 4194304) → ∀ o p, imageByte gs o p → 4194304 ≤ o → o < 16777216 →
      t.byteAt p = c.wst.get 0 (o - 4194304))) ∧
  (n = .read → c.owner.isSome = true → ∃ t, exec (.ctxrs d a b) s = .next t ∧ s.didX t 2 pc d 1) ∧
  (n = .read → c.owner = none →
    ∃ t, exec (.ctxrs d a b) s = .next t ∧ s.me.movedOn t.me s.eng pc 2 ∧ t.me.getS s.eng d.val = 0 ∧
      (t.core k).pc = c.pc ∧ (t.core k).pass = c.pass ∧ (t.core k).scal = c.scal ∧ (t.core k).fifo = c.fifo ∧
      (t.core k).owner = none ∧ (t.core k).mode = c.mode ∧ (∀ j, j ≠ s.cur → j ≠ k → t.core j = s.core j) ∧ s.sameBytes t ∧
      (∀ o p, imageByte gs o p → o < 4194304 → (t.core k).pad.get 0 o = s.byteAt p) ∧
      ∀ o p, imageByte gs o p → 4194304 ≤ o → o < 16777216 → (t.core k).wst.get 0 (o - 4194304) = s.byteAt p))

/-- R371, R421: XLINV forgets every cached translation of the partition that overlaps the range, keeps those of other partitions, and changes nothing else; a length of 0 forgets none. That the entries go at once, and that it retires where no access under way uses one of the range and else waits, is the model's reading of R371 (log 20, DEDUCED). In control mode another partition's number takes the privilege fault, and a set bit above the partition's number the layout fault. That the privilege is checked first is log 13 (DEDUCED), and the words of the faults' records are log 16 (DEDUCED). -/
def Obligations.XlinvForgetsTranslations : Prop := ∀ (s : State) (d a b : Reg), s.me.mode ≠ .tile →
  let p := wField (s.rd d) 0 4
  let lo := (s.rd a).toNat
  let n := min (lo + (s.rd b).toNat) (2 ^ 58) - lo
  let forgotten (t : State) : Prop := s.sameOthers t ∧
    { t with cores := s.cores, memory := { t.memory with tlb := s.memory.tlb } } = s ∧ s.sameBytes t ∧
    (∀ x ∈ t.memory.tlb, x ∈ s.memory.tlb) ∧ (∀ x ∈ s.memory.tlb, x.1 ≠ p → x ∈ t.memory.tlb) ∧
    (∀ x ∈ s.memory.tlb, n = 0 → x ∈ t.memory.tlb) ∧
    ∀ x ∈ t.memory.tlb, x.1 = p → ∀ v, lo ≤ v → v < lo + n →
      let size := 8 * pageBytes x.2.2.2
      ¬(x.2.1 * 524288 / size * size ≤ v ∧ v < x.2.1 * 524288 / size * size + size)
  (s.me.mode = .control → p ≠ s.me.part →
    exec (.xlinv d a b) s = .next (s.takeFault s.cur s.eng (mkTrap .privilege (s.rd d)))) ∧
  ((s.me.mode = .control → p = s.me.part) → wField (s.rd d) 4 60 ≠ 0 →
    exec (.xlinv d a b) s = .next (s.takeFault s.cur s.eng (mkTrap .layout (s.rd d)))) ∧
  ((s.me.mode = .control → p = s.me.part) → wField (s.rd d) 4 60 = 0 → n = 0 ∨ s.usesRange p lo n = false →
    ∃ t, exec (.xlinv d a b) s = .next t ∧ s.me.movedOn t.me s.eng (s.me.pc.get s.eng + 64) 2 ∧
      { t.me with pc := s.me.pc, pass := s.me.pass } = s.me ∧ forgotten t) ∧
  ((s.me.mode = .control → p = s.me.part) → wField (s.rd d) 4 60 = 0 → n ≠ 0 → s.usesRange p lo n = true →
    ∃ t, exec (.xlinv d a b) s = .next t ∧ t.me.wait = s.me.wait.set s.eng .memory ∧ { t.me with wait := s.me.wait } = s.me ∧ forgotten t)

/-- R60, R99: An instruction of any of the four engines that misses a token pops nothing: its engine waits on the FIFOs, and nothing else changes. The pop that precedes an issue takes the head token of each FIFO named, changes no other FIFO, and changes of the registers only scalars of the popping engine's copy; without token bits it changes nothing but the engine that has the turn. What a retired instruction still owes: with room, the engine's token goes to the tail of each FIFO named; without room, the places of tokens popped for an instruction that has not retired counted, the engine waits to push, and TOKEN_PUSH makes the push once there is room and lets the engine run again. -/
def Obligations.TokensArePoppedAndPushed : Prop :=
  (∀ (s : State) (e : Eng) (tk : Toks) (i : Instr), taggedWith tk e i →
  s.me.popped.get e = [] → (∃ q ∈ popsOf e tk, s.me.tokens q = []) →
  ∃ t, exec i s = .next t ∧ t.me.wait = s.me.wait.set e (.pop (maskOf (popsOf e tk))) ∧
    { t.me with wait := s.me.wait } = s.me ∧ { t with cores := s.cores } = { s with eng := e } ∧ s.sameOthers t ∧ s.sameBytes t) ∧
  (∀ (s : State) (e : Eng) (tk : Toks), s.hasTokens e tk ↔ ∃ u, s.issuing e tk = some u) ∧
  (∀ (s u : State) (e : Eng) (tk : Toks), s.me.popped.get e = [] →
  s.issuing e tk = some u →
  (∀ q, u.me.tokens q = if q ∈ popsOf e tk then (s.me.tokens q).tail else s.me.tokens q) ∧
  (∀ e' r, e' ≠ e → u.me.getS e' r = s.me.getS e' r) ∧ (∀ q ∈ popsOf e tk, s.me.tokens q ≠ []) ∧
  { u.me with fifo := s.me.fifo, scal := s.me.scal, upds := s.me.upds, known := s.me.known, wait := s.me.wait,
              popped := s.me.popped, popAt := s.me.popAt } = s.me ∧
  { u with cores := s.cores } = { s with eng := e } ∧ s.sameOthers u ∧ s.sameBytes u ∧
  (tk.wb = false → tk.wa = false → u = { s with eng := e, cores := u.cores } ∧ u.me = s.me)) ∧
  (∀ (s : State) (e : Eng) (m : Nat), s.me.wait.get e = .push m →
  ∃ t, exec (.tokenPush e) s = .next t ∧
    (∀ q, t.me.tokens q =
      if q < 8 ∧ m.testBit q = true ∧ s.me.taken q < 8 then s.me.tokens q ++ [s.me.known.get e] else s.me.tokens q) ∧
    ((∀ q, q < 8 → m.testBit q = true → s.me.taken q < 8) → t.me.wait.get e = .run) ∧
    ((∃ q, q < 8 ∧ m.testBit q = true ∧ 8 ≤ s.me.taken q) → ∃ m', t.me.wait.get e = .push m') ∧
    { t.me with fifo := s.me.fifo, wait := s.me.wait } = s.me ∧ s.onlyCore t)

/-- R41, R354, R389, R415: A fault of a tile task stops it where it stands. No register of any engine changes, the tokens that any engine has popped for an instruction it has not retired are back at the heads of their FIFOs, and its ring is broken. A fault of a firmware core enters its mode's vector with the class, the sub-cause and the record's first operand, and the saved address is that of the faulting instruction; in control mode so does an access fault, beside its confinement record. That the value register of root mode holds the record's first operand, as R415 says of control mode, is log 16's reading (DEDUCED). -/
def Obligations.FaultsStopOrEnter : Prop :=
  (∀ (s : State) (k : CoreId) (e : Eng) (f : Trap),
  (s.core k).mode = .tile → (s.core k).stopped = none → k < 768 →
  (s.core k).stoppedAs ((s.takeFault k e f).core k) f.cls ∧
  ∀ x r, (s.core k).owner = some x → s.ringOf x = some r → (s.takeFault k e f).ringOf x = some { r with broken := true }) ∧
  (∀ (s : State) (k : CoreId) (e : Eng) (f : Trap),
  ((s.core k).mode = .root → s.exBit k .root = false → f.cls < 4096 →
    let t := s.takeFault k e f
    t.rootCsr 513 = (s.core k).pc.get e ∧ wField (t.rootCsr 514) 0 12 = f.cls ∧ t.rootCsr 515 = f.a ∧
    (∀ x, (t.core k).pc.get x = s.rootCsr 512) ∧ (t.core k).mode = .root ∧ (t.core k).scal = (s.core k).scal) ∧
  ((s.core k).mode = .control → s.exBit k .control = false → f.cls < 256 → f.sub < 256 →
    let t := s.takeFault k e f
    let n := k - 768
    t.ctl n 258 = (s.core k).pc.get e ∧ wField (t.ctl n 259) 0 8 = f.cls ∧ wField (t.ctl n 259) 8 8 = f.sub ∧ t.ctl n 260 = f.a ∧
    (∀ x, (t.core k).pc.get x = s.ctl n 257) ∧ (t.core k).mode = .control ∧ (t.core k).scal = (s.core k).scal))

/-- R26 to R40: The bytes of every well-formed instruction decode to it, with every operand at every value, and leave what follows. -/
def Obligations.DecodingInvertsEncoding : Prop := ∀ (i : Instr) (rest : List Byte), i.wf = true → encode i ≠ [] →
  decodeBytes (encodeBytes i ++ rest) = .ok (i, rest)

/-- R26 to R40: What decodes is the encoding of the instruction that it decodes to, and that instruction keeps every field rule. -/
def Obligations.EveryWordHasOneMeaning : Prop := ∀ (bs rest : List Byte) (i : Instr), decodeBytes bs = .ok (i, rest) →
  i.wf = true ∧ encode i ≠ [] ∧ bs = encodeBytes i ++ rest

/-- R40: The first check that fails gives the sub-cause: a reserved tag, a continuation word, token bits on an X word, a short engine word, a wrong word 1, an operation that its map does not assign, a reserved field. -/
def Obligations.IllegalWordsAreRefusedInOrder : Prop := ∀ (w0 w1 : Nat), w0 < 2 ^ 32 → w1 < 2 ^ 32 →
  let tag := w0 / 2 ^ 25 % 8
  let long := w0 / 2 ^ 24 % 2 = 1
  let op := w0 / 2 ^ 18 % 64
  let passes := tag ≤ 4 ∧ (tag = 0 → w0 / 2 ^ 28 = 0) ∧ (tag ≠ 0 → long) ∧ (long → w1 / 2 ^ 25 = 6)
  let assigned := (tag = 0 ∧ ¬long ∧ op ≤ 51) ∨ (tag = 0 ∧ long ∧ op ≤ 11) ∨ (tag = 1 ∧ op ≤ 16) ∨ (tag = 2 ∧ op ≤ 6) ∨
    (tag = 3 ∧ op ≤ 59 ∧ op ≠ 15 ∧ op ≠ 31) ∨ (tag = 4 ∧ op ≤ 26)
  (tag = 5 ∨ tag = 7 → decodeWords w0 w1 = .error .reservedTag) ∧
  (tag = 6 → decodeWords w0 w1 = .error .strayContinuation) ∧
  (tag = 0 → w0 / 2 ^ 28 ≠ 0 → decodeWords w0 w1 = .error .tokenBitsOnX) ∧
  (1 ≤ tag → tag ≤ 4 → ¬long → decodeWords w0 w1 = .error .shortWord) ∧
  (tag ≤ 4 → (tag = 0 → w0 / 2 ^ 28 = 0) → long → w1 / 2 ^ 25 ≠ 6 → decodeWords w0 w1 = .error .malformedContinuation) ∧
  (passes → ¬assigned → decodeWords w0 w1 = .error .unassignedOp) ∧
  (passes → assigned → decodeWords w0 w1 = .error .reservedField ∨ ∃ i, decodeWords w0 w1 = .ok i ∧ i.wf = true)

/-- R26, R27, R35 to R39: Words written out from the layouts and the opcode maps decode to the instructions that they stand for. -/
def Obligations.WordsDecodeToTheirInstructions : Prop :=   -- X ADD s3, s1, s2: op 0, d = 3, a = 1, b = 2
  decodeTableWord 32 (3 * 2 ^ 13 + 1 * 2 ^ 8 + 2 * 2 ^ 3) = some (.add 3 1 2) ∧
  -- X ADDI s4, s5, -1: op 25, immediate 0xFF
  decodeTableWord 32 (25 * 2 ^ 18 + 4 * 2 ^ 13 + 5 * 2 ^ 8 + 255) = some (.addi 4 5 0xFF) ∧
  -- X BRC.ltu s6, s7: L = 1, op 3, condition 4 in aux; the target -2 in word 1 of tag 6
  decodeTableWord 64 (2 ^ 24 + 3 * 2 ^ 18 + 6 * 2 ^ 13 + 7 * 2 ^ 8 + 4 + (6 * 2 ^ 25 + 33554430) * 2 ^ 32) = some (.brc .ltu 6 7 0x1FFFFFE) ∧
  -- F LDS s8, s9, 32 bits at offset 64: tag 1, op 3, width less one, WB
  decodeTableWord 64 (2 ^ 31 + 2 ^ 25 + 2 ^ 24 + 3 * 2 ^ 18 + 8 * 2 ^ 13 + 9 * 2 ^ 8 + 31 + (6 * 2 ^ 25 + 64) * 2 ^ 32) =
    some (.lds ⟨⟨true, false, false, false⟩, 8, 9, 31, 0, 0, 64⟩) ∧
  -- M MZ of accumulator 5: tag 2, op 3, SA
  decodeTableWord 64 (2 ^ 28 + 2 * 2 ^ 25 + 2 ^ 24 + 3 * 2 ^ 18 + 5 * 2 ^ 13 + (6 * 2 ^ 25) * 2 ^ 32) =
    some (.mz ⟨⟨false, false, false, true⟩, 5, 0, 0, 0, 0, false, 0, .f32, 0, false, 0⟩) ∧
  -- V VADD of BF16, predicate 3, zeroing, rounding mode 1: tag 3, op 0
  decodeTableWord 64 (3 * 2 ^ 25 + 2 ^ 24 + 10 * 2 ^ 13 + 11 * 2 ^ 8 + 12 * 2 ^ 3 + (6 * 2 ^ 25 + 3 * 2 ^ 21 + 2 ^ 20 + 2 ^ 11 + 2 ^ 8) * 2 ^ 32) =
    some (.vadd ⟨⟨false, false, false, false⟩, 10, 11, 12, 0, 3, true, 0, .bf16, 1, false, 0⟩) ∧
  -- W ATOM s1, s2, s3: tag 4, op 4, ADD on 32 bits in OFS
  decodeTableWord 64 (4 * 2 ^ 25 + 2 ^ 24 + 4 * 2 ^ 18 + 1 * 2 ^ 13 + 2 * 2 ^ 8 + 3 * 2 ^ 3 + (6 * 2 ^ 25 + 6 * 16) * 2 ^ 32) =
    some (.atom ⟨⟨false, false, false, false⟩, 1, 2, 3, 0, 0, 0, 96⟩)

/-- R30, R31, R99, R104, R106: The engine whose turn it is, when it may run, executes the instruction that the words at its pc decode to, and passes a word of another engine. It runs in the state of the turn, but that the engine holds the instruction that it has fetched, and for failed accesses of earlier instructions, which are forgotten, and the sectors of the fetch, which are scrubbed. The words are those that memory holds where the pc's page leads. -/
def Obligations.AStepRunsTheDecodedInstruction : Prop := ∀ (s u : State) (w0 w1 : Nat) (i : Instr), s.edge.powered = true →
  s.takeTurn = (none, u) → u.runnable u.cur = true → isGhost u.cur = false → u.tornWord u.cur = false → u.edge.throttle = false →
  u.me.deadlocked = false → u.me.wait.get u.eng = .run → u.me.slipStall u.eng = false →
  let pc := u.me.pc.get u.eng
  let v := u.inTime
  (v.fetchWord pc = .ok w0 → (w0 / 2 ^ 24 % 2 = 1 → v.fetchWord (pc + 32) = .ok w1) → decodeWords w0 w1 = .ok i →
    (tagEngine (engTag w0) = none ∨ tagEngine (engTag w0) = some u.eng → step s = exec i (v.hold (some i)).fetched) ∧
    ∀ e, e ≠ u.eng → tagEngine (engTag w0) = some e → step s = exec (.skipWord true) (v.hold (some (.skipWord true))).fetched) ∧
  (u.plain → ∀ j, (v.hold (some j)).fetched = u.hold (some j)) ∧
  (∀ j, { (u.hold j).me with held := u.me.held } = u.me ∧ u.onlyCore (u.hold j)) ∧
  ∀ (a : Word) (g : Seg), u.resolve .fetch [(a.toNat, 32)] = .ok [[g]] → u.plain → u.ordinary g → u.formerWords (g.1 / 32) = [] →
    u.movers.copies = [] ∨ u.me.mode = .root → ∃ w, u.fetchWord a = .ok w ∧ w < 2 ^ 32 ∧ ∀ b, b < 32 → w.testBit b = u.bitAt (g.1 + b)

/-- R361, R422, R423, R440, R453: The state after reset meets the invariant of memory. After boot the root core stands at address 0 in root mode with EX clear; every partition is disabled (log 12, DESIGN CHOICE), FRQN of every control core is 1 and its other registers 0, BIDN is 1 and the other root registers 0, no launch of a queue is running, every byte of memory is 0 (log 5, DESIGN CHOICE, where the spec gives no content), and the boot stands at step 5. Address 0 as the root core's start, ROOTV 0, and the moment of the boot at which this state stands are log 4 (DESIGN CHOICE). -/
def Obligations.ResetMeetsTheMemoryInvariant : Prop :=
  (State.reset.memoryWf) ∧
  (  let s := State.reset
  (∀ e, (s.core rootId).pc.get e = 0 ∧ (s.core rootId).pass.get e = 0) ∧ (s.core rootId).mode = .root ∧ s.exBit rootId .root = false ∧
  (∀ e r, (s.core rootId).getS e r = 0) ∧ s.runnable rootId = true ∧ (∀ k, k ≠ rootId → s.core k = Core.zero) ∧
  (∀ p, (s.part p).enabled = false) ∧ (∀ k n, k < 20 → n < 4096 → s.ctl k n = if n = 275 then 1 else 0) ∧
  (∀ n, s.rootCsr n = if n = 593 then 1 else 0) ∧ (∀ i, i < 1024 → s.launch i = none) ∧ (∀ a, s.byteAt a = 0) ∧
  s.edge.powered = true ∧ s.edge.pfStatus = 81)

/-- Every step keeps memory in its one canonical form. -/
def Obligations.StepsKeepTheMemoryInvariant : Prop := ∀ (s t : State), s.memoryWf → step s = .next t → t.memoryWf

/-- R99, R103, R219 to R221: Once its tokens are there, an instruction that writes a vector register retires, whatever VCNT, the predicate and the operands are; it changes nothing but lanes in valid rows and columns of v_d, and flags and dither phase of V's copy. What an element-by-element instruction leaves at an element that is valid and inactive: its old lanes in merge mode, 0 in zero mode. An element of a 64-bit type occupies two lanes. -/
def Obligations.VectorInstructionsRetire : Prop :=
  (∀ (s u : State) (x : VW) (i : Instr), s.issuing .v x.tk = some u →
  i.wf = true → i ∈ elementwise x ∨ i ∈ linewise x → ∃ t, exec i s = .next t ∧ onlyLanesOfD x u t) ∧
  (∀ (s u t : State) (x : VW) (i : Instr) (r k : Nat),
  s.issuing .v x.tk = some u → i.wf = true → i ∈ elementwise x → exec i s = .next t → r < u.me.rows .v → k < u.me.cols .v →
  let first := if x.ty.width = 64 then k / 2 * 2 else k
  (u.me.prow x.pred.val r).testBit first = false →
  vlane t.me x.d r k = if x.z = true ∧ (x.ty.width = 64 → first + 1 < u.me.cols .v) then 0 else vlane u.me x.d r k)

/-- R188, R193, R225 to R234, R237, R245: The results of the integer, logic and shift instructions and of VMOV, at every active element. The floating sum, difference, product and fused sum of numbers are the exact results, rounded once in the mode of RM, or of RMODE where RM is 0; an exact zero of different signs is +0, or -0 under rounding down; what infinities give. What the arithmetic on floating types gives at every active element for a NaN operand: the canonical NaN of the type, and no flag: where every active element has a NaN operand, FFLAGS of V's copy is as before; VABS and VNEG of a number change only the sign bit. -/
def Obligations.VectorElementResults : Prop :=
  (∀ (x : VW),
  let t := x.ty
  let n (b : Nat) : Nat := if x.mod.val / 64 = 1 then x.mod.val % 64 else b % 64 % t.width
  elementResult (.viadd x) x t (fun a b => integerCode x (codeInt t a + codeInt t b)) ∧
  elementResult (.visub x) x t (fun a b => integerCode x (codeInt t a - codeInt t b)) ∧
  (x.sub = 0 → elementResult (.vimul x) x t fun a b => integerCode x (codeInt t a * codeInt t b)) ∧
  (x.sub = 1 → elementResult (.vimul x) x t fun a b => (BitVec.ofInt t.width (codeInt t a * codeInt t b / 2 ^ t.width)).toNat) ∧
  (t.isI = true → elementResult (.vmin x) x t fun a b => if codeInt t a ≤ codeInt t b then a else b) ∧
  (t.isI = true → elementResult (.vmax x) x t fun a b => if codeInt t b ≤ codeInt t a then a else b) ∧
  (t.isI = true → elementResult (.vabs x) x t fun a _ => integerCode x ((codeInt t a).natAbs : Int)) ∧
  (t.isI = true → elementResult (.vneg x) x t fun a _ => integerCode x (-(codeInt t a))) ∧
  elementResult (.vand x) x .n32 (fun a b => a &&& b) ∧ elementResult (.vor x) x .n32 (fun a b => a ||| b) ∧
  elementResult (.vxor x) x .n32 (fun a b => a ^^^ b) ∧ elementResult (.vmov x) x .n32 (fun a _ => a) ∧
  elementResult (.vshl x) x t (fun a b => a * 2 ^ n b % 2 ^ t.width) ∧ elementResult (.vshr x) x t (fun a b => a / 2 ^ n b) ∧
  elementResult (.vshra x) x t (fun a b => (BitVec.ofInt t.width ((BitVec.ofNat t.width a).toInt / 2 ^ n b)).toNat)) ∧
  (∀ (x : VW) (t : Ty), t = x.ty → t.isF = true →
  let nan (v : Nat) : Bool := (valOf t v).isNan
  let code := nanCode t
  (∀ i ∈ [Instr.vadd x, .vsub x, .vmul x, .vmin x, .vmax x], ∀ (s u w : State) (r e : Nat), s.issuing .v x.tk = some u → i.wf = true →
    exec i s = .next w → activeElement x t u.me r e →
    (nan (elementCode t u.me x.a r e) || nan (elementCode t u.me x.b r e)) = true → vlane w.me x.d r e = code) ∧
  (∀ i ∈ [Instr.vabs x, .vneg x, .vrcp x, .vrsq x, .vexp2 x, .vlog2 x, .vtanh x], ∀ (s u w : State) (r e : Nat),
    s.issuing .v x.tk = some u → i.wf = true → exec i s = .next w → activeElement x t u.me r e →
    nan (elementCode t u.me x.a r e) = true → vlane w.me x.d r e = code) ∧
  (∀ i ∈ [Instr.vadd x, .vsub x, .vmul x, .vmin x, .vmax x], ∀ (s u w : State), s.issuing .v x.tk = some u → i.wf = true →
    exec i s = .next w → (∀ r e, activeElement x t u.me r e →
      (nan (elementCode t u.me x.a r e) || nan (elementCode t u.me x.b r e)) = true) → w.me.getC .v 22 = u.me.getC .v 22) ∧
  (∀ i ∈ [Instr.vabs x, .vneg x, .vrcp x, .vrsq x, .vexp2 x, .vlog2 x, .vtanh x], ∀ (s u w : State),
    s.issuing .v x.tk = some u → i.wf = true → exec i s = .next w → (∀ r e, activeElement x t u.me r e →
      nan (elementCode t u.me x.a r e) = true) → w.me.getC .v 22 = u.me.getC .v 22) ∧
  (∀ (s u w : State) (r e : Nat), s.issuing .v x.tk = some u → (Instr.vabs x).wf = true → exec (.vabs x) s = .next w →
    activeElement x t u.me r e → nan (elementCode t u.me x.a r e) = false →
    vlane w.me x.d r e = elementCode t u.me x.a r e % 2 ^ (t.width - 1)) ∧
  (∀ (s u w : State) (r e : Nat), s.issuing .v x.tk = some u → (Instr.vneg x).wf = true → exec (.vneg x) s = .next w →
    activeElement x t u.me r e → nan (elementCode t u.me x.a r e) = false →
    vlane w.me x.d r e = elementCode t u.me x.a r e ^^^ 2 ^ (t.width - 1))) ∧
  (∀ (x : VW) (i : Instr) (s u w : State) (r e : Nat), s.issuing .v x.tk = some u → i.wf = true → exec i s = .next w → x.ty.isF = true →
  activeElement x x.ty u.me r e → i ∈ [Instr.vadd x, .vsub x, .vmul x, .vfma x] →
  let t := x.ty
  let rm := if x.rm.val = 0 then wField (u.me.getC .v 23) 0 3 else x.rm.val
  let a := valOf t (elementCode t u.me x.a r e)
  let b := valOf t (elementCode t u.me x.b r e)
  let c := valOf t (elementCode t u.me x.c r e)
  let is (v : Nat) : Prop := vlane w.me x.d r e = v
  let infinite (neg : Bool) : Prop := is (withSign t neg (infMag t))
  (i = .vfma x → a = .nan ∨ b = .nan ∨ c = .nan → is (nanCode t)) ∧
  (∀ m, (rm = 1 ∧ m = .rne) ∨ (rm = 2 ∧ m = .zero) ∨ (rm = 3 ∧ m = .up) ∨ (rm = 4 ∧ m = .down) →
    ∀ (p q : Bool) (m1 d1 m2 d2 : Nat), a = .fin p m1 d1 → b = .fin q m2 d2 →
    let n1 := sNum p m1
    let n2 := sNum q m2
    let gives (zero : Bool) (num : Int) (den : Nat) : Prop := roundsTo t m x.sat zero num den (vlane w.me x.d r e)
    let zero (p q : Bool) : Bool := if p = q then p else decide (m = .down)
    (i = .vadd x → gives (zero p q) (n1 * d2 + n2 * d1) (d1 * d2)) ∧ (i = .vsub x → gives (zero p !q) (n1 * d2 - n2 * d1) (d1 * d2)) ∧
    (i = .vmul x → gives (p != q) (n1 * n2) (d1 * d2)) ∧
    (∀ (l : Bool) (m3 d3 : Nat), i = .vfma x → c = .fin l m3 d3 →
      gives (zero (p != q) l) (n1 * n2 * d3 + sNum l m3 * (d1 * d2)) (d1 * d2 * d3)) ∧
    ∀ l, i = .vfma x → c = .inf l → infinite l) ∧
  (∀ p q, a = .inf p → b = .inf q → (i = .vadd x → if p = q then infinite p else is (nanCode t)) ∧
    (i = .vsub x → if p = q then is (nanCode t) else infinite p) ∧ (i = .vmul x → infinite (p != q))) ∧
  (∀ p q n d, a = .inf p → b = .fin q n d → (i = .vadd x ∨ i = .vsub x → infinite p) ∧
    (i = .vmul x → if n = 0 then is (nanCode t) else infinite (p != q))) ∧
  (∀ p q n d, a = .fin p n d → b = .inf q → (i = .vadd x → infinite q) ∧ (i = .vsub x → infinite !q) ∧
    (i = .vmul x → if n = 0 then is (nanCode t) else infinite (p != q))) ∧
  (∀ p q, i = .vfma x → (a = .inf p ∧ (b = .inf q ∨ ∃ n d, b = .fin q n d ∧ n ≠ 0)) ∨ (b = .inf q ∧ ∃ n d, a = .fin p n d ∧ n ≠ 0) →
    (∀ l, c = .inf l → if (p != q) = l then infinite l else is (nanCode t)) ∧ ((∃ l n d, c = .fin l n d) → infinite (p != q))) ∧
  (i = .vfma x → (∃ p q d, (a = .inf p ∧ b = .fin q 0 d) ∨ (a = .fin q 0 d ∧ b = .inf p)) → is (nanCode t)))

/-- R222, R236, R240, R243, R245: The source of every active lane (r, k) of a rotation, broadcast, transposition, selection or move. -/
def Obligations.MovementsTakeTheirSourceLanes : Prop := ∀ (s u w : State) (x : VW) (i : Instr) (r k : Nat),
  s.issuing .v x.tk = some u → i.wf = true → exec i s = .next w → activeElement x .n32 u.me r k →
  let amount (n : Nat) : Nat := if x.mod.val / 64 = 1 then x.mod.val % 64 else (u.me.getS .v x.b.val).toNat % n
  let result := vlane w.me x.d r k
  (i = .vrotr x → result = vlane u.me x.a ((r + amount 16) % 16) k) ∧
  (i = .vrotc x → result = vlane u.me x.a r ((k + amount 64) % 64)) ∧
  (i = .vbcr x → result = vlane u.me x.a (amount 16) k) ∧ (i = .vbcc x → result = vlane u.me x.a r (amount 64)) ∧
  (i = .vtrn x → result = vlane u.me x.a (k % 16) (16 * (k / 16) + r)) ∧
  (i = .vselp x → result = if (u.me.prow x.c.val r).testBit k = true then vlane u.me x.a r k else vlane u.me x.b r k) ∧
  (i = .viota x → result = if x.sub = 0 then k else if x.sub = 1 then r else 64 * r + k) ∧
  (i = .vmovz x → result = (u.me.acc.get 0 (1024 * x.a.val + 64 * r + k)).toNat) ∧
  (i = .vbcs x → x.ty.width = 32 → result = (u.me.getS .v x.a.val).toNat % 2 ^ 32)

/-- R103, R219, R235, R244, R248 to R250: Once its tokens are there, an instruction that writes a predicate retires, whatever VCNT, the predicate and the operands are, and changes nothing but rows of the predicate d (VTOPK with MOD[6] also lanes of v_C); p0 is all true whatever is written to it. The bits of the destination predicate, at every position below COLS of a valid row: the operation's bit where the position is active, and else the old bit, or 0 in zero mode; an element of a 64-bit type has two bits. PSET with MOD[1] writes every bit, and PUNPK every bit of a valid row. VTOPK sets the bits of the columns it chooses and clears those of the other valid columns; with MOD[6] it writes their numbers, in rank order, into v_C, and all ones into the lanes above. -/
def Obligations.PredicateInstructionsWriteTheirPredicate : Prop :=
  (∀ (s u : State) (x : VW) (i : Instr), s.issuing .v x.tk = some u → i.wf = true →
  i ∈ [Instr.vcmp x, .vtopk x, .pand x, .por x, .pxor x, .pnot x, .pset x, .punpk x] ∨ (i = .pfrst x ∧ x.sub = 0) →
  ∃ t, exec i s = .next t ∧ u.retired t .v x.tk ∧ u.onlyCoreAndAsks t ∧
    { t.me with pc := u.me.pc, pass := u.me.pass, fifo := u.me.fifo, popped := u.me.popped, wait := u.me.wait, pred := u.me.pred,
                vreg := if i = .vtopk x ∧ x.immBit = true then u.me.vreg else t.me.vreg } = u.me ∧
    (∀ p r, p < 16 → r < 16 → p ≠ x.d.val → t.me.prow p r = u.me.prow p r) ∧
    (∀ r, r < 16 → u.me.rows .v ≤ r → (i = .pset x → x.mod.val < 2) → t.me.prow x.d.val r = u.me.prow x.d.val r) ∧
    ∀ r, t.me.prow 0 r = 2 ^ 64 - 1) ∧
  (∀ (s : State) (x : VW) (i : Instr), s.hasTokens .v x.tk → i.wf = true →
  i ∈ [Instr.vcmp x, .vtopk x, .pand x, .por x, .pxor x, .pnot x, .pset x, .punpk x, .pfrst x] →
  ∃ u t, s.issuing .v x.tk = some u ∧ exec i s = .next t ∧ u.retired t .v x.tk) ∧
  (∀ (s u w : State) (x : VW) (i : Instr) (r k : Nat),
  s.issuing .v x.tk = some u → i.wf = true → exec i s = .next w → x.d.val ≠ 0 → r < 16 → k < 64 →
  let old := (u.me.prow x.d.val r).testBit k
  let new := (w.me.prow x.d.val r).testBit k
  let pa := (u.me.prow x.a.val r).testBit k
  let pb := (u.me.prow x.b.val r).testBit k
  let put (b : Bool) : Bool := if r < u.me.rows .v ∧ k < u.me.cols .v then
    (if (u.me.prow x.pred.val r).testBit k then b else if x.z then false else old) else old
  (i = .pand x → new = put (pa && pb)) ∧ (i = .por x → new = put (pa || pb)) ∧ (i = .pxor x → new = put (pa != pb)) ∧
  (i = .pnot x → new = put (!pa)) ∧
  (i = .pset x → new = if x.mod.val / 2 % 2 = 1 then x.mod.val % 2 == 1 else put (x.mod.val % 2 == 1)) ∧
  (i = .punpk x → r < u.me.rows .v → new = if k < 32 then (vlane u.me x.a r 0).testBit k else (vlane u.me x.a r 1).testBit (k - 32)) ∧
  (i = .pfrst x → x.sub = 0 → new = put (pa && (List.range k).all fun c =>
    !((u.me.prow x.a.val r).testBit c && (u.me.prow x.pred.val r).testBit c && decide (c < u.me.cols .v)))) ∧
  (i = .vcmp x → x.ty.width ≤ 32 → new = put
    (conditionHolds x (elementCode x.ty u.me x.a r k) (elementCode x.ty u.me x.b r k))) ∧
  (i = .vcmp x → x.ty.width = 64 → new = if r < u.me.rows .v ∧ k / 2 * 2 + 1 < u.me.cols .v then
    (if (u.me.prow x.pred.val r).testBit (k / 2 * 2) then
      conditionHolds x (elementCode x.ty u.me x.a r (k / 2)) (elementCode x.ty u.me x.b r (k / 2))
    else if x.z then false else old) else old) ∧
  (i = .vtopk x → new = if r < u.me.rows .v ∧ k < u.me.cols .v then (chosenColumns x u.me r).contains k else old)) ∧
  (∀ (s u w : State) (x : VW) (r q : Nat), s.issuing .v x.tk = some u → (Instr.vtopk x).wf = true → exec (.vtopk x) s = .next w →
  r < 16 → q < 64 → vlane w.me x.c r q =
    if x.mod.val / 64 = 1 ∧ r < u.me.rows .v then (chosenColumns x u.me r).getD q 4294967295 else vlane u.me x.c r q)

/-- R60, R245, R249: The V instructions with a scalar result. PCNT counts the active 1 bits of p_a, PFRST gives the position of the first, or 1,024, and VMOVS reads one element by its number, whatever VCNT says; a number past the register's lanes takes the local-range fault. That PCNT and PFRST write their scalar where no position is active, in merge mode too, is log 13 (DESIGN CHOICE), and that the fault's record holds s[b] is log 16 (DEDUCED). -/
def Obligations.ScalarResultsOfV : Prop := ∀ (s u : State) (x : VW), s.issuing .v x.tk = some u →
  let on (r k : Nat) : Bool := decide (r < u.me.rows .v) && decide (k < u.me.cols .v) && (u.me.prow x.a.val r).testBit k &&
    (u.me.prow x.pred.val r).testBit k
  (x.sub = 0 → ∃ t, exec (.pcnt x) s = .next t ∧ onlyScalar x u t
    (BitVec.ofNat 64 ((List.range 1024).filter fun p => on (p / 64) (p % 64)).length)) ∧
  (x.sub = 1 → ∃ t, exec (.pcnt x) s = .next t ∧ onlyLanesOfD x u t) ∧
  (x.sub = 1 → ∃ t, exec (.pfrst x) s = .next t ∧ onlyScalar x u t
    (BitVec.ofNat 64 (((List.range 1024).find? fun p => on (p / 64) (p % 64)).getD 1024))) ∧
  (let k := (u.me.getS .v x.b.val).toNat
   let bad : Prop := faultsAs .v x.tk (.vmovs x) s (mkTrap .localRange (u.me.getS .v x.b.val))
   (1024 ≤ k → bad) ∧ (x.ty.width = 64 → k % 2 = 1 → bad) ∧
   (k < 1024 → x.ty.width ≤ 32 → ∃ t, exec (.vmovs x) s = .next t ∧
     onlyScalar x u t (BitVec.ofInt 64 (codeInt x.ty (vlane u.me x.a (k / 64) (k % 64) % 2 ^ x.ty.width)))) ∧
   (k < 1024 → x.ty.width = 64 → k % 2 = 0 → ∃ t, exec (.vmovs x) s = .next t ∧
     onlyScalar x u t (BitVec.ofNat 64 (vlane u.me x.a (k / 64) (k % 64) + vlane u.me x.a (k / 64) (k % 64 + 1) * 2 ^ 32))))

/-- R238, R246, R247, R250: Once their tokens are there, VQNT and PPACK retire. VQNT changes no register but valid lanes of v_d and columns 0 and 1 of valid rows of v_C, PPACK writes the two halves of a predicate row into columns 0 and 1 of its valid rows. VLDB and VSTB retire where the operand word has no reserved bit and every valid element and its scale lies in the bank, and else take the local-range fault; into a bank of scale mode 1 VSTB takes the operand-format fault unless it writes whole blocks under p0. VSTB changes no vector register, VLDB and VQNT no scratchpad byte. That the faults' records hold s[b] is log 16 (DEDUCED). -/
def Obligations.QuantisationAndBankTransfersRetire : Prop :=
  (∀ (s : State) (x : VW), s.hasTokens .v x.tk → (∃ u t, s.issuing .v x.tk = some u ∧ exec (.vqnt x) s = .next t ∧ u.retired t .v x.tk) ∧
  ∃ u t, s.issuing .v x.tk = some u ∧ exec (.ppack x) s = .next t ∧ u.retired t .v x.tk) ∧
  (∀ (s u : State) (x : VW), s.issuing .v x.tk = some u →
  let v := (u.me.getS .v x.b.val).toNat
  let e := v % 2 ^ 21
  let p := v / 2 ^ 21 % 2 ^ 21
  let fits (b : Nat) : Prop := v < 2 ^ 42 ∧ ∀ r, r < u.me.rows .v → inBank (u.me.bfmt .v b) (e + r * p) (u.me.cols .v) = true
  let blocks : Prop := x.pred = 0 ∧ e % 32 = 0 ∧ p % 32 = 0 ∧ u.me.cols .v % 32 = 0
  (∃ t, exec (.vqnt x) s = .next t ∧ u.retired t .v x.tk ∧ u.onlyCoreAndAsks t ∧
    { t.me with pc := u.me.pc, pass := u.me.pass, fifo := u.me.fifo, popped := u.me.popped, wait := u.me.wait, vreg := u.me.vreg,
                csr := u.me.csr } = u.me ∧
    ∀ (j : Fin 32) r k, r < 16 → k < 64 →
      j.val ≠ u.me.phys .v x.d.val ∨ u.me.rows .v ≤ r ∨ u.me.cols .v ≤ k →
      j.val ≠ u.me.phys .v x.c.val ∨ u.me.rows .v ≤ r ∨ 2 ≤ k →
      t.me.vreg.get 0 (1024 * j.val + 64 * r + k) = u.me.vreg.get 0 (1024 * j.val + 64 * r + k)) ∧
  (∃ t, exec (.ppack x) s = .next t ∧ u.retired t .v x.tk ∧ u.onlyCoreAndAsks t ∧
    { t.me with pc := u.me.pc, pass := u.me.pass, fifo := u.me.fifo, popped := u.me.popped, wait := u.me.wait, vreg := u.me.vreg } =
      u.me ∧
    ∀ (j : Fin 32) r k, r < 16 → k < 64 → t.me.vreg.get 0 (1024 * j.val + 64 * r + k) =
      if j.val = u.me.phys .v x.d.val ∧ r < u.me.rows .v ∧ k < 2 then BitVec.ofNat 32 (u.me.prow x.a.val r / 2 ^ (32 * k))
      else u.me.vreg.get 0 (1024 * j.val + 64 * r + k)) ∧
  (fits x.a.val → ∃ t, exec (.vldb x) s = .next t ∧ onlyLanesOfD x u t) ∧
  (¬fits x.a.val → faultsAs .v x.tk (.vldb x) s (mkTrap .localRange (u.me.getS .v x.b.val))) ∧
  (fits x.d.val → (fmtScl (u.me.bfmt .v x.d.val) = 1 → blocks) →
    ∃ t, exec (.vstb x) s = .next t ∧ u.retired t .v x.tk ∧ t.me.vreg = u.me.vreg ∧ t.me.scal = u.me.scal ∧
      t.me.pred = u.me.pred ∧ t.me.acc = u.me.acc ∧ t.me.wst = u.me.wst ∧ u.sameOthers t ∧
      (∀ a, a < 262144 * x.d.val ∨ 262144 * (x.d.val + 1) ≤ a → t.me.pad.get 0 a = u.me.pad.get 0 a) ∧
      (u.slotOf ((u.me.owner).getD 0) = none → u.sameBytes t)) ∧
  (¬fits x.d.val → faultsAs .v x.tk (.vstb x) s (mkTrap .localRange (u.me.getS .v x.b.val))) ∧
  (fits x.d.val → fmtScl (u.me.bfmt .v x.d.val) = 1 → ¬blocks →
    faultsAs .v x.tk (.vstb x) s (mkTrap .operandFormat (u.me.getS .v x.b.val))))

/-- R199, R200, R203, R205 to R212, R216, R218: Once their tokens are there, MMV, MZ and MACC retire, and MMA and MMAI where their operands pass the checks and their slabs are at the bound unit; a check that fails faults, an operand word out of range first, and a part held elsewhere is awaited. MMV, MZ, MACC and MMAI give the results of R209 and R210 at every active lane, and MMA the groups of R199 folded by R200, and none of these changes anything but lanes of z_d and flags. MWCP and MWCLR retire where their operand words are in range, and fill slabs j to j + n - 1; the slabs are then held at the bound unit, and other slabs are as before. Operand words out of range take the local-range fault. The words of the faults' records are log 16 (DEDUCED). -/
def Obligations.MatrixInstructionsRetire : Prop :=
  (∀ (s : State) (x : VW) (i : Instr), s.hasTokens .m x.tk → i ∈ [Instr.mmv x, .mz x, .macc x] →
  ∃ u t, s.issuing .m x.tk = some u ∧ exec i s = .next t ∧ u.retired t .m x.tk) ∧
  (∀ (s u : State) (x : VW), s.issuing .m x.tk = some u →
  (∃ t, exec (.mmv x) s = .next t ∧ onlyAccumulators x u t ∧
    accHolds x u t fun i k => (u.me.vreg.get 0 (1024 * u.me.phys .m x.a.val + 64 * i + k)).toNat) ∧
  (∃ t, exec (.mz x) s = .next t ∧ onlyAccumulators x u t ∧ accHolds x u t fun _ _ => 0) ∧
  (∃ t, exec (.macc x) s = .next t ∧ onlyAccumulators x u t ∧ accHolds x u t fun i k =>
    let a := accLane u.me x.d.val i k
    let b := if x.sub = 1 then (u.me.vreg.get 0 (1024 * u.me.phys .m x.a.val + 64 * i + k)).toNat else accLane u.me x.a.val i k
    let mode := u.me.rmMode .m x.rm.val 0
    if x.ty.isF = true then (rndOf .f32 mode false ((valOf .f32 a).add (mode == .down) (valOf .f32 b))).1
    else clampedCode ((BitVec.ofNat 32 a).toInt + (BitVec.ofNat 32 b).toInt)) ∧
  (let o := (u.me.getS .m x.c.val).toNat
   ∀ i, i = .mma x ∨ i = .mmai x →
     (o / 2 ^ 52 ≠ 0 ∨ 1024 < o % 1024 + slabsPer x.ty * (o / 1024 % 1024 + 1) →
       faultsAs .m x.tk i s (mkTrap .localRange (u.me.getS .m x.c.val))) ∧
     (∀ f, u.tile x = .error (.trap f) → faultsAs .m x.tk i s f)) ∧
  (operandsFit u x → u.tile x = .ok ⟨(u.me.getS .m x.c.val).toNat / 1024 % 1024 + 1, (u.me.getS .m x.c.val).toNat % 1024,
    (List.range (u.me.rows .m)).map fun i => (u.me.genAt x.b.val).rowA (signed 32 ((u.me.getS .m x.c.val).toNat / 2 ^ 20 % 2 ^ 32))
      (((u.me.getS .m x.c.val).toNat / 1024 % 1024 + 1) * depthOf x.ty) i⟩) ∧
  (operandsFit u x → slabsAtHome u x → ∃ t v, exec (.mma x) s = .next t ∧ onlyAccumulators x u t ∧ accHolds x u t v) ∧
  (operandsFit u x → slabsAtHome u x → ∃ t, exec (.mmai x) s = .next t ∧ onlyAccumulators x u t) ∧
  ∀ q, u.tile x = .ok q → u.memory.check = [] → u.edge.sramErr = [] →
    (u.partsDone x.ty q = .ok () →
      (∃ t, exec (.mma x) s = .next t ∧ onlyAccumulators x u t ∧ accHolds x u t (mmaLane x u q)) ∧
      (∃ t, exec (.mmai x) s = .next t ∧ onlyAccumulators x u t ∧ accHolds x u t fun i k =>
        let ta := fmtTy (u.me.bfmt .m x.a.val)
        let as := (q.rows.getD i []).map fun e => if e = .filled then (0 : Int) else codeInt ta (u.me.codeA x.a.val ta.width e)
        let bs := (u.columnCodes x.ty q.j q.n k).map (codeInt x.ty)
        clampedCode ((BitVec.ofNat 32 (accLane u.me x.d.val i k)).toInt + (List.zipWith (· * ·) as bs).sum))) ∧
    ∀ h ∈ u.holders x.ty q, h ∉ u.me.parts → ∀ i, i = .mma x ∨ i = .mmai x → ∃ t, exec i s = .next t ∧
      t.me.wait.get .m = .memory ∧ t.me.pc = s.me.pc ∧ t.me.acc = s.me.acc ∧
      ∃ y ∈ t.agenda, y.1 = some (.partsRequestReturn s.cur h)) ∧
  (∀ (s u : State) (x : VW), s.issuing .m x.tk = some u →
  (let v := (u.me.getS .m x.b.val).toNat
   let w0 := v % 65536
   let j := v / 2 ^ 16 % 1024
   let n := v / 2 ^ 26 % 1024 + 1
   let words := if x.sub = 1 then 256 else 3072
   let fits : Prop := v < 2 ^ 36 ∧ j + n ≤ 1024 ∧ w0 + words * n ≤ 65536
   (fits → ∃ t, exec (.mwcp x) s = .next t ∧ u.retired t .m x.tk ∧ t.me.pad = u.me.pad ∧ t.me.acc = u.me.acc ∧ t.me.vreg = u.me.vreg ∧
     t.me.scal = u.me.scal ∧ (∀ r, j ≤ r → r < j + n → t.me.holder.get 0 r = 0) ∧
     (∀ r k, (r < j ∨ j + n ≤ r) → (k < 12288 → slabByte t.me r k = slabByte u.me r k) ∧ (k < 1024 → scaleByte t.me r k = scaleByte u.me r k)) ∧
     (x.sub ≠ 1 → ∀ r k, r < n → k < 12288 →
       slabByte t.me (j + r) k = u.me.pad.get 0 (262144 * x.a.val + 4 * (w0 + 3072 * r) + k)) ∧
     (x.sub = 1 → ∀ r k, r < n → k < 1024 →
       scaleByte t.me (j + r) k = u.me.pad.get 0 (262144 * x.a.val + 4 * (w0 + 256 * r) + k))) ∧
   (¬fits → faultsAs .m x.tk (.mwcp x) s (mkTrap .localRange (u.me.getS .m x.b.val)))) ∧
  (let v := (u.me.getS .m x.a.val).toNat
   let j := v % 1024
   let n := v / 1024 % 1024 + 1
   let fits : Prop := v < 2 ^ 20 ∧ j + n ≤ 1024
   (fits → ∃ t, exec (.mwclr x) s = .next t ∧ u.retired t .m x.tk ∧ t.me.pad = u.me.pad ∧
     t.me.acc = u.me.acc ∧ t.me.vreg = u.me.vreg ∧ t.me.scal = u.me.scal ∧
     (∀ r, j ≤ r → r < j + n → t.me.holder.get 0 r = 0 ∧
       (∀ k, k < 12288 → slabByte t.me r k = 0) ∧ ∀ k, k < 1024 → scaleByte t.me r k = 0) ∧
     ∀ r k, (r < j ∨ j + n ≤ r) → (k < 12288 → slabByte t.me r k = slabByte u.me r k) ∧ (k < 1024 → scaleByte t.me r k = scaleByte u.me r k)) ∧
   (¬fits → faultsAs .m x.tk (.mwclr x) s (mkTrap .localRange (u.me.getS .m x.a.val)))))

/-- R5, R116, R117, R142, R152, R367 to R370: A load of ordinary memory succeeds, and reads the bits that the translation of its page gives; it changes nothing but cached translations and the lines in L2. A store into ordinary memory outside shadow regions, on a die that accepts writes, succeeds; its bits take the value, and every other bit of memory, and everything else, is as before, but that the Creamer looks at its records after a store of firmware. -/
def Obligations.LoadsAndStoresReachTheBitsOfTheirPages : Prop :=
  (∀ (u : State) (n : Need) (va bits : Nat),
  (∀ gs, u.resolve n [(va, bits)] = .ok [gs] → u.plain → (∀ g ∈ gs, u.ordinary g) → ∃ v w, u.load n va bits = .ok (v, w)) ∧
  ∀ v w, u.load n va bits = .ok (v, w) → v < 2 ^ bits ∧ (u.plain → u.onlyCaches w) ∧
    ∀ g, u.resolve n [(va, bits)] = .ok [[g]] → u.plain → u.ordinary g → u.movers.copies = [] ∨ u.me.mode = .root →
      ∀ i, i < bits → v.testBit i = u.bitAt (g.1 + i)) ∧
  (∀ (u : State) (va bits x : Nat) (g : Seg),
  u.resolve .write [(va, bits)] = .ok [[g]] → u.plain → u.slotless → u.memory.shadows = [] → u.ordinary g → u.flashHeld [g] = false →
  ∃ w, u.store va bits x = .ok w ∧
    (∀ b, w.bitAt b = if g.1 ≤ b ∧ b < g.1 + bits then x.testBit (b - g.1) else u.bitAt b) ∧
    { w with memory := { w.memory with bytes := u.memory.bytes, oldText := u.memory.oldText, tlb := u.memory.tlb,
                                       lines := u.memory.lines, dirty := u.memory.dirty } } = u.firmwareWrote ∧
    { u.firmwareWrote with agenda := u.agenda } = u ∧ (u.me.mode = .tile → u.firmwareWrote = u))

/-- R137, R152, R153: LDS and STS act at s[a] + OFS, which must lie in [0, 2^64); FLDK reads ordinary memory through the constant cache, and an empty cache gives what stands in memory. -/
def Obligations.ScalarLoadsAndStores : Prop := ∀ (s u : State),
  (∀ (a : Reg) (o : Fin 262144) (n : Nat), let at_ : Int := (u.rd a).toNat + (BitVec.ofNat 18 o.val).toInt
    u.scalarAddr a o n = if 0 ≤ at_ ∧ at_ + n ≤ 2 ^ 64 then .ok at_.toNat else fail .addrGen (BitVec.ofInt 64 at_)) ∧
  (∀ (x : MS) a v w, s.issuing .f x.tk = some u → u.scalarAddr x.a x.ofs (x.wm1.val + 1) = .ok a →
    u.load .read a (x.wm1.val + 1) = .ok (v, w) →
    ∃ t, exec (.lds x) s = .next t ∧ retiredWith .f x.tk w t (sansScalars w t) ∧ scalarResult .f x.d w t (BitVec.ofNat 64 v)) ∧
  (∀ (x : MS) a w, s.issuing .w x.tk = some u → u.scalarAddr x.a x.ofs (x.wm1.val + 1) = .ok a →
    u.store a (x.wm1.val + 1) ((u.rd x.d).toNat % 2 ^ (x.wm1.val + 1)) = .ok w →
    ∃ t, exec (.sts x) s = .next t ∧ retiredWith .w x.tk w t t.me) ∧
  (∀ (x : MW) a gs, s.issuing .f x.tk = some u → u.scalarAddr x.a x.ofs (widthOf x.sub.val) = .ok a →
    u.resolve .read [(a, widthOf x.sub.val)] = .ok [gs] → u.plain → (∀ g ∈ gs, u.ordinary g) →
    u.dramGiB ≤ 1024 →
    ∃ t v, exec (.fldk x) s = .next t ∧ scalarResult .f x.d u t v ∧ u.retired t .f x.tk ∧ u.sameBytes t ∧
      { sansScalars u t with pc := u.me.pc, pass := u.me.pass, fifo := u.me.fifo, popped := u.me.popped, wait := u.me.wait,
                             fBar := u.me.fBar, kcache := u.me.kcache } = u.me ∧ u.sameOthers t ∧
      { t with cores := u.cores, memory := { t.memory with tlb := u.memory.tlb, lines := u.memory.lines },
               edge := { t.edge with asks := u.edge.asks, sramErr := u.edge.sramErr } } = u ∧
      (∀ g, gs = [g] → u.me.kcache = [] → u.movers.copies = [] ∨ u.me.mode = .root → ∀ i, i < widthOf x.sub.val → v.getLsbD i = u.bitAt (g.1 + i)))

/-- R141 to R148: FLD, FGATH, FLDV and FLDW retire once their operands pass the checks and their elements are read; each element goes to its place, a lane outside the extents of FLDV becomes 0, and FLDW fills the images of its slabs. Beats that run on across the blocks of FGATH, counted in BCC, are the model's choice (log 13). -/
def Obligations.TensorLoadsBringTheirElements : Prop := ∀ (s u w : State) (x : MW) (g : Gen) (es : List Elem1) (vals : List (Nat × Nat)),
  s.issuing .f x.tk = some u →
  (u.plain → u.readElems g es = .ok (vals, w) → u.onlyCaches w) ∧
  (u.flatElems x = .ok (g, es) → u.readElems g es = .ok (vals, w) → w.slotless →
    ∃ t, exec (.fld x) s = .next t ∧ bankFilled x g es vals w t) ∧
  (u.blockElems x = .ok (g, es) → u.readElems g es = .ok (vals, w) → w.slotless →
    ∃ t, exec (.fgath x) s = .next t ∧ bankFilled x g es vals w t) ∧
  (u.laneElems x = .ok (g, es) → u.readElems g es = .ok (vals, w) →
    ∃ t, exec (.fldv x) s = .next t ∧ retiredWith .f x.tk w t { t.me with vreg := w.me.vreg } ∧
      (∀ p ∈ vals, (t.me.vreg.get 0 (1024 * w.me.phys .f x.d.val + p.1)).toNat =
        if x.sub.val % 2 = 1 then ((BitVec.ofNat g.width p.2).signExtend 32).toNat else p.2) ∧
      (∀ k, k < 1024 → (∀ p ∈ vals, p.1 ≠ k) → t.me.vreg.get 0 (1024 * w.me.phys .f x.d.val + k) = 0) ∧
      ∀ (j : Fin 32) k, k < 1024 → j.val ≠ w.me.phys .f x.d.val →
        t.me.vreg.get 0 (1024 * j.val + k) = w.me.vreg.get 0 (1024 * j.val + k)) ∧
  (let n := x.ofs.val % 1024 + 1
   let size := if x.ofs.val.testBit 10 then 1024 else 12288
   let j := (u.rd x.b).toNat
   ∀ v, j + n ≤ 1024 → (u.rd x.a).toNat + 8 * size * n ≤ 2 ^ 64 → u.load .read (u.rd x.a).toNat (8 * size * n) = .ok (v, w) →
     ∃ t, exec (.fldw x) s = .next t ∧ w.retired t .f x.tk ∧ t.me.pad = w.me.pad ∧ t.me.scal = w.me.scal ∧ t.me.vreg = w.me.vreg ∧
       (∀ r k, r < n → k < size → (if x.ofs.val.testBit 10 then scaleByte t.me (j + r) k else slabByte t.me (j + r) k) =
         BitVec.ofNat 8 (v / 2 ^ (8 * (size * r + k)))) ∧
       (∀ r, j ≤ r → r < j + n → t.me.holder.get 0 r = 0) ∧
       ∀ r k, (r < j ∨ j + n ≤ r) → (k < 12288 → slabByte t.me r k = slabByte w.me r k) ∧ (k < 1024 → scaleByte t.me r k = scaleByte w.me r k))

/-- R141 to R147: FST, FSCAT and FSTV retire once their elements pass the checks. Into ordinary memory they store each element at its resolved bits, the later of two winning, and nothing else; the core keeps everything but BCC. Beats that run on across the blocks of FSCAT are the model's choice (log 13). Stores of firmware have the Creamer look at its records. -/
def Obligations.TensorStoresWriteTheirElements : Prop := ∀ (s u w : State) (x : MW) (g : Gen) (es : List Elem1) (segs : List (List Seg)),
  s.issuing .w x.tk = some u → u.checkElems g .write es = .ok segs → u.plain → u.slotless → u.memory.shadows = [] → (∀ gs ∈ segs, ∀ h ∈ gs, u.ordinary h ∧ u.flashHeld [h] = false) →
  let lane (k : Nat) : Nat := (u.me.vreg.get 0 (1024 * u.me.phys .w x.d.val + k)).toNat % 2 ^ g.width
  let bank (k : Nat) : Nat := u.me.bankBits x.d.val k g.width
  let inside := es.filter fun e => !g.oob e.addr
  let counted (t : State) : Prop := ∀ e k, k < 256 → t.me.getC e k = if e = .w ∧ k = 24 then
    BitVec.ofNat 64 (min 4294967295 ((u.me.getC .w 24).toNat + bankWaits g.width (es.map Elem1.place))) else u.me.getC e k
  let stored (i : Instr) (value : Nat → Nat) (bcc : Bool) : Prop := ∃ t, exec i s = .next t ∧ u.retired t .w x.tk ∧
    { t.me with pc := u.me.pc, pass := u.me.pass, fifo := u.me.fifo, popped := u.me.popped, wait := u.me.wait, wBar := u.me.wBar,
                csr := u.me.csr } = u.me ∧
    { t with cores := u.cores, memory := u.memory, edge := { t.edge with asks := u.edge.asks } } = u.firmwareWrote ∧
    (if bcc then counted t else ∀ e k, k < 256 → t.me.getC e k = u.me.getC e k) ∧ u.sameOthers t ∧
    elementsStored u t segs (inside.map fun e => value e.place)
  (u.flatElems x = .ok (g, es) → stored (.fst x) bank true) ∧ (u.blockElems x = .ok (g, es) → stored (.fscat x) bank true) ∧
  (u.laneElems x = .ok (g, es) → stored (.fstv x) lane false)

/-- R139, R140, R149 to R151: GSET loads a record that keeps its limits into one generator; WSET loads a window and fetches its slots; WADV fetches the next k rows and moves HEAD on. A record outside its limits takes the layout or window fault. That WADV with k = 0 on a set window retires without a comparison is log 13 (DEDUCED). -/
def Obligations.GeneratorsAndWindowsAreSet : Prop := ∀ (s u : State) (x : MW), s.issuing .f x.tk = some u →
  (∀ v w, State.loadRecord u (u.rd x.a) 1024 1024 = .ok (v, w) → layoutOk v = true →
    ∃ t, exec (.gset x) s = .next t ∧ retiredWith .f x.tk w t { t.me with gen := w.me.gen } ∧
      ∀ o, t.me.gen.get 0 o = if 128 * x.d.val ≤ o ∧ o < 128 * x.d.val + 128 then BitVec.ofNat 8 (v / 2 ^ (8 * (o - 128 * x.d.val)))
        else w.me.gen.get 0 o) ∧
  (∀ v w y, State.loadRecord u (u.rd x.a) 512 512 = .ok (v, w) → windowOk v = true →
    w.fetchRows (winOf v) (winOf v).row0 (winOf v).slots = .ok y →
    ∃ t, exec (.wset x) s = .next t ∧ retiredWith .f x.tk y t { t.me with win := y.me.win } ∧
      ∀ o, t.me.win.get 0 o = if 64 * x.d.val ≤ o ∧ o < 64 * x.d.val + 64 then
        BitVec.ofNat 8 ((setField v 320 64 ((winOf v).row0 % 2 ^ 64).toNat) / 2 ^ (8 * (o - 64 * x.d.val))) else y.me.win.get 0 o) ∧
  (let image := natOfBytes (u.me.win.slice 0 (64 * x.d.val) 64)
   let m := winOf image
   let k := (u.rd x.a).toNat
   (m.slots ≠ 0 → k = 0 → ∃ t, exec (.wadv x) s = .next t ∧ retiredWith .f x.tk u t t.me) ∧
   (∀ y, 0 < k → k ≤ m.slots → u.fetchRows m (m.head + m.slots) k = .ok y →
     ∃ t, exec (.wadv x) s = .next t ∧ retiredWith .f x.tk y t { t.me with win := y.me.win } ∧
       winOf (natOfBytes (t.me.win.slice 0 (64 * x.d.val) 64)) =
         { m with head := (BitVec.ofInt 64 (m.head + k)).toInt })) ∧
  (∀ v w, State.loadRecord u (u.rd x.a) 1024 1024 = .ok (v, w) → layoutOk v = false →
    faultsAs .f x.tk (.gset x) s (mkTrap .layout (u.rd x.a))) ∧
  (∀ v w, State.loadRecord u (u.rd x.a) 512 512 = .ok (v, w) → windowOk v = false →
    faultsAs .f x.tk (.wset x) s (mkTrap .window (u.rd x.a)))

/-- R112, R154, R156, R158: XCPY copies elements between banks (integers of one type unchanged), one issued again after a pre-emption from the source bank that its first issue read; PREF brings lines into L2, and in memory without pending rows and check bytes changes nothing else; PREF.arr queues its request; FENCE.F and FENCE.W retire at once, since every earlier access has performed (log 1, DESIGN CHOICE), FENCE.F with K with an empty constant cache. -/
def Obligations.CopiesPrefetchesAndFences : Prop := ∀ (s u : State) (x : MW),
  (s.issuing .f x.tk = some u →
    (let v := u.rd x.b
     let i := wField v 0 21
     let j := wField v 21 21
     let n := wField v 42 22
     let fa := u.me.bfmt .f x.a.val
     let fd := u.me.bfmt .f x.d.val
     (n = 0 → ∃ t, exec (.xcpy x) s = .next t ∧ retiredWith .f x.tk u t t.me) ∧
     (n ≠ 0 → inBank fa i n = true → inBank fd j n = true → (fmtScl fd = 1 → j % 32 = 0 ∧ n % 32 = 0) → u.slotless →
       ∃ t, exec (.xcpy x) s = .next t ∧ retiredWith .f x.tk u t { t.me with pad := u.me.pad, csr := u.me.csr, staged := u.me.staged } ∧ t.me.staged = none ∧
         (∀ b, b < 262144 * x.d.val ∨ 262144 * (x.d.val + 1) ≤ b → t.me.pad.get 0 b = u.me.pad.get 0 b) ∧
         (∀ e k, k < 256 → e ≠ .f ∨ (k ≠ 21 ∧ k ≠ 22) → t.me.getC e k = u.me.getC e k) ∧
         t.me.getC .f 22 &&& u.me.getC .f 22 = u.me.getC .f 22 ∧
         (fmtTy fa = fmtTy fd → (fmtTy fd).isF = false → (fmtTy fd).isMk = false → fmtScl fa = 0 → fmtScl fd = 0 → ∀ k, k < n →
           t.me.bankBits x.d.val ((j + k) * (fmtTy fd).width) (fmtTy fd).width =
             (u.me.sourceOf x.a.val).bankBits x.a.val ((i + k) * (fmtTy fd).width) (fmtTy fd).width))) ∧
    (u.me.staged = none → u.me.sourceOf x.a.val = u.me) ∧
    ((u.rd x.b).toNat = 0 → ∃ t, exec (.pref x) s = .next t ∧ retiredWith .f x.tk u t t.me) ∧
    (∀ gs, (u.rd x.b).toNat ≠ 0 → (u.rd x.a).toNat + (u.rd x.b).toNat ≤ 2 ^ 64 →
      u.resolve .read [((u.rd x.a).toNat, (u.rd x.b).toNat)] = .ok [gs] →
      ∃ t, exec (.pref x) s = .next t ∧ u.retired t .f x.tk ∧ t.me.scal = u.me.scal ∧
        (u.memory.check = [] → u.memory.clrRows = [] → u.sameOthers t ∧ u.sameBytes t ∧
          { t with cores := u.cores, memory := { t.memory with lines := u.memory.lines }, edge := { t.edge with asks := u.edge.asks } }
            = u) ∧
        (∀ l ∈ u.memory.lines, l ∈ t.memory.lines) ∧
        ∀ g ∈ gs, u.region (g.1 / 8) = .dram ∨ u.region (g.1 / 8) = .flash → ∀ b, g.1 ≤ b → b < g.1 + g.2 →
          b / 1024 ∈ t.memory.lines) ∧
    (validRef u (u.rd x.d) → (u.rd x.a).toNat + (u.rd x.b).toNat ≤ 2 ^ 64 →
      ∃ t, exec (.prefArr x) s = .next t ∧ u.retired t .f x.tk ∧ t.me.scal = u.me.scal ∧ u.sameOthers t ∧ u.sameBytes t ∧
        t.movers = { u.movers with prefetches := u.movers.prefetches ++
          [⟨u.me.mode, u.me.part, u.rd x.a, u.rd x.b, u.rd x.d, u.rd (Fin.ofNat 32 (x.d.val + 1))⟩] } ∧
        t.agenda = u.agenda ++ [(some .prefetchArrival, u.cur, u.eng)]) ∧
    (∃ t, exec (.fenceF x) s = .next t ∧
      retiredWith .f x.tk u t { t.me with kcache := if x.sub.val.testBit 1 then u.me.kcache else t.me.kcache } ∧
      (x.sub.val.testBit 1 = true → t.me.kcache = []))) ∧
  (s.issuing .w x.tk = some u → ∃ t, exec (.fenceW x) s = .next t ∧ retiredWith .w x.tk u t t.me)

/-- R313 to R319, R337 to R341: ATTP, ATTL and ATTF retire once their descriptor, blocks and state record pass the checks. ATTP and ATTL write nothing but their three vector registers; no used entry gives ATTP the triple (-inf, 0, 0), and a state without tokens gives ATTL the triple (0, 0, 0). An unused entry leaves ATTF without effect; a used one adds its tokens to the count of the state, and changes no byte outside the state. -/
def Obligations.AttentionInstructionsRetire : Prop := ∀ (s u : State) (x : MW),
  (s.issuing .f x.tk = some u →
    (∀ a w b y, u.descriptor x true = .ok (a, w) → w.blocks a = .ok (b, y) →
      ∃ t, exec (.attp x) s = .next t ∧ retiredWith .f x.tk y t { t.me with vreg := y.me.vreg } ∧
        (∀ (j : Fin 32) k, k < 1024 → ¬attentionRegisters x a y.me j.val →
          t.me.vreg.get 0 (1024 * j.val + k) = y.me.vreg.get 0 (1024 * j.val + k)) ∧
        (b = [] → ∀ i, i < a.rows →
          (∀ k, k < a.dim → k < 64 → t.me.vreg.get 0 (1024 * y.me.phys .f x.d.val + 64 * i + k) = 0) ∧
          t.me.vreg.get 0 (1024 * y.me.phys .f x.b.val + 64 * i + 2 * (x.ofs.val % 2)) = 0xFF800000#32 ∧
          t.me.vreg.get 0 (1024 * y.me.phys .f x.b.val + 64 * i + 2 * (x.ofs.val % 2) + 1) = 0)) ∧
    (∀ a w d ws y, u.descriptor x false = .ok (a, w) → w.linear .read a.list (some a.dim) nothingElse = .ok (d, ws, y) →
      ∃ t, exec (.attl x) s = .next t ∧ retiredWith .f x.tk y t { t.me with vreg := y.me.vreg } ∧
        (∀ (j : Fin 32) k, k < 1024 → ¬attentionRegisters x a y.me j.val →
          t.me.vreg.get 0 (1024 * j.val + k) = y.me.vreg.get 0 (1024 * j.val + k)) ∧
        (ws.getD 2 0 = 0 → ws.getD 3 0 = 0 → ∀ i, i < a.rows →
          (∀ k, k < a.dim → k < 64 → t.me.vreg.get 0 (1024 * y.me.phys .f x.d.val + 64 * i + k) = 0) ∧
          t.me.vreg.get 0 (1024 * y.me.phys .f x.b.val + 64 * i + 2 * (x.ofs.val % 2)) = 0 ∧
          t.me.vreg.get 0 (1024 * y.me.phys .f x.b.val + 64 * i + 2 * (x.ofs.val % 2) + 1) = 0))) ∧
  (s.issuing .w x.tk = some u →
    ((u.rd x.b).getLsbD 63 = false → ∃ t, exec (.attf x) s = .next t ∧ retiredWith .w x.tk u t t.me) ∧
    ∀ d ws y sl b z g, (u.rd x.b).getLsbD 63 = true → (u.rd x.a).toNat % 512 = 0 → (u.rd x.b).getLsbD 62 = false →
      u.linear .both (u.rd x.a) none (blockSpan (u.rd x.b) (kvType x.sub.val)) = .ok (d, ws, y) →
      y.checkBlocks [u.rd x.b] (kvType x.sub.val) d = .ok sl → y.blockTokens (u.rd x.b) (kvType x.sub.val) d = .ok (b, z) →
      z.resolve .both [((u.rd x.a).toNat, 8 * stateBytes d)] = .ok [[g]] → z.plain → z.slotless → z.memory.shadows = [] → z.ordinary g → z.flashHeld [g] = false →
      ∃ t, exec (.attf x) s = .next t ∧ retiredWith .w x.tk { z with memory := t.memory, agenda := t.agenda } t t.me ∧
        (∀ q, q < g.1 ∨ g.1 + g.2 ≤ q → t.bitAt q = z.bitAt q) ∧
        t.numAt (g.1 / 8 + 8) 8 = (ws.getD 2 0 + ws.getD 3 0 * 2 ^ 32 + b.length) % 2 ^ 64)

/-- R118, R155: ATOM on an aligned word of ordinary memory gives its old value in s[d] and stores the new one; nothing else changes, but that the Creamer looks at its records after an ATOM of firmware. -/
def Obligations.AtomicsReadModifyAndWrite : Prop := ∀ (s u : State) (x : MW) (g : Seg), s.issuing .w x.tk = some u →
  let w := widthOf (x.ofs.val / 16 % 8)
  let at_ := (u.rd x.a).toNat
  let b := (u.rd x.b).toNat % 2 ^ w
  let cmp := (u.rd x.d).toNat % 2 ^ w
  let signed (v : Nat) : Int := (BitVec.ofNat w v).toInt
  at_ % w = 0 → at_ + w ≤ 2 ^ 64 → u.resolve .both [(at_, w)] = .ok [[g]] → u.plain → u.slotless → u.memory.shadows = [] →
  u.ordinary g → u.flashHeld [g] = false →
  ∃ t old, exec (.atom x) s = .next t ∧ old < 2 ^ w ∧ (∀ i, i < w → old.testBit i = u.bitAt (g.1 + i)) ∧
    (let new := match x.ofs.val % 16 with
       | 0 => (old + b) % 2 ^ w | 1 => old &&& b | 2 => old ||| b | 3 => old ^^^ b
       | 4 => if signed old ≤ signed b then old else b | 5 => if signed b ≤ signed old then old else b
       | 6 => min old b | 7 => max old b | 8 => b | _ => if old = cmp then b else old
     ∀ q, t.bitAt q = if g.1 ≤ q ∧ q < g.1 + w then new.testBit (q - g.1) else u.bitAt q) ∧
    scalarResult .w x.d u t (BitVec.ofNat 64 old) ∧
    retiredWith .w x.tk { u.firmwareWrote with memory := t.memory } t (sansScalars u t)

/-- R131, R164 to R166: COPY and RED queue their command behind those of the launch, RED with its elements captured; nothing is moved yet. The 1,025th command of a superstep takes the communication-queue fault. -/
def Obligations.CommandsAreQueued : Prop := ∀ (s u : State) (x : MW) (k : TaskId) (y : Task) (l : Launch),
  s.issuing .w x.tk = some u →
  (let a := u.rd x.a
   let d := u.rd x.d
   let n := wField (u.rd x.b) 0 40
   let ofs := if x.sub.val / 2 = 1 then wField d 0 25 else wField d 0 27
   let source (p : Place) : Prop :=
     if x.sub.val.testBit 0 = true then a.toNat + n ≤ 33554432 ∧ p = .pad y.role a.toNat
     else a.toNat + n ≤ 2 ^ 64 ∧ ∃ gs, u.resolve .read [(a.toNat, n)] = .ok [gs] ∧ p = .mem a.toNat gs
   let target (p : Place) : Prop :=
     match x.sub.val / 2 with
     | 0 => d.toNat + n ≤ 2 ^ 64 ∧ ∃ gs, u.resolve .write [(d.toNat, n)] = .ok [gs] ∧ u.portAccess gs = .ok () ∧ u.portFault gs = .ok () ∧ p = .mem d.toNat gs
     | 1 => wField d 25 7 = 0 ∧ wField d 40 24 = 0 ∧ ofs + n ≤ 33554432 ∧ wField d 32 8 < l.n ∧ p = .pad (wField d 32 8) ofs
     | _ => wField d 27 5 = 0 ∧ wField d 40 24 = 0 ∧ ofs + n ≤ 100663296 ∧ wField d 32 8 < l.n ∧ p = .wst (wField d 32 8) ofs
   ∀ p q, u.taskOf u.cur = some (k, y, l) → source p → target q → 0 < n →
     (y.cmdPos < 1024 → ∃ t, exec (.copy x) s = .next t ∧ u.retired t .w x.tk ∧ t.me.scal = u.me.scal ∧ t.me.pad = u.me.pad ∧
       u.sameOthers t ∧ u.sameBytes t ∧ t.task k = some { y with cmdPos := y.cmdPos + 1 } ∧
       t.launch y.launch =
         some { l with cmds := l.cmds ++ [⟨16 * wField (u.rd x.b) 40 24, y.role, y.cmdPos, .copy p q n⟩] }) ∧
     (1024 ≤ y.cmdPos → faultsAs .w x.tk (.copy x) s (mkTrap .commQueue))) ∧
  (let a := (u.rd x.a).toNat
   let first := wField (u.rd x.b) 0 16 * 32
   let ty := Ty.ofCode (x.ofs.val % 16)
   ∀ win w gs, a % 512 = 0 → wField (u.rd x.b) 16 48 = 0 → u.redWindow x = .ok (win, gs, w) → w.taskOf w.cur = some (k, y, l) →
     w.portAccess gs = .ok () → w.portFault gs = .ok () → ty = win.ty →
     (win.got.filter fun g => g.1 = y.role).length < (win.table.filter fun e => e = y.role).length → y.cmdPos < 1024 →
     ∃ t, exec (.red x) s = .next t ∧ w.retired t .w x.tk ∧ t.me.scal = w.me.scal ∧ t.me.pad = w.me.pad ∧ w.sameOthers t ∧ w.sameBytes t ∧
       t.task k = some { y with cmdPos := y.cmdPos + 1 } ∧
       t.launch y.launch = some { l with
         cmds := l.cmds ++ [⟨0, y.role, y.cmdPos, .red a⟩]
         wins := (l.wins.filter fun z => z.rcd ≠ a) ++ [{ win with
           dest := gs
           got := win.got ++ [(y.role, (List.range win.n).map fun e => w.me.bankBits x.d.val (first + e * ty.width) ty.width)] }] })

/-- R122 to R124, R159 to R161: Barriers of this module. BINI leaves a new record of count c; BARR of a phase that is open counts, the arrival that fills the oldest open phase completes it, whose status moves to its place among the completed, one of a phase too far ahead waits, and one of a phase that is past takes the barrier-phase fault; BWAIT gives the status word, or waits for the phase. A record that cannot be read gives both a sector-code fault, the reading of log 12 (DESIGN CHOICE). -/
def Obligations.BarriersCountAndWait : Prop := ∀ (s u : State) (x : MW),
  (s.issuing .w x.tk = some u →
    let r := u.rd x.d
    let q := u.rd x.a
    let a := barrierAt u.me.part (wField r 0 22)
    validRef u r →
    (ownRef u r → 0 < q.toNat → q.toNat < 65536 → u.plain → u.portOver a 64 = false → u.me.wait.get .w ≠ .meet 51 → u.me.wBar = .idle →
      ∃ t, exec (.bini x) s = .next t ∧ u.retired t .w x.tk ∧ t.me.scal = u.me.scal ∧ t.barN a = 0 ∧ t.barC a = q.toNat ∧
        ∀ k, t.barCount a k = 0) ∧
    (q.toNat = 0 ∨ 65536 ≤ q.toNat → faultsAs .w x.tk (.bini x) s (mkTrap .barrierValue 0 q r)) ∧
    (ownRef u r → u.logNext = .act → u.me.wBar = .idle → u.barC a ≠ 0 → u.barN a ≤ q.toNat → q.toNat < u.barN a + 4 →
      u.barCount a q.toNat + 1 < u.barC a → u.barCount a (u.barN a) < u.barC a → u.memory.arrivals = [] → u.plain → u.portOver a 64 = false → u.slotless →
      ∃ t, exec (.barr x) s = .next t ∧ retiredWith .w x.tk { u with memory := t.memory } t t.me ∧
        (∀ k, t.barCount a k = if k % 4 = q.toNat % 4 then u.barCount a k + 1 else u.barCount a k) ∧
        t.barN a = u.barN a ∧ t.barC a = u.barC a ∧ u.sameBytesBut t a 64) ∧
    (ownRef u r → u.logNext = .act → u.me.wBar = .idle → u.barC a ≠ 0 → q.toNat = u.barN a → u.barN a + 1 < 2 ^ 64 →
      u.barCount a q.toNat + 1 = u.barC a → u.barCount a (u.barN a + 1) < u.barC a → u.memory.arrivals = [] → u.memory.waits = [] →
      (∀ c ∈ u.cores, ∀ b v tk, c.2.fBar ≠ .waiting b v tk) → u.plain → u.portOver a 64 = false → u.slotless →
      ∃ t, exec (.barr x) s = .next t ∧ retiredWith .w x.tk { u with memory := t.memory } t t.me ∧
        t.barN a = u.barN a + 1 ∧ t.barC a = u.barC a ∧
        (∀ k, t.barCount a k = if k % 4 = q.toNat % 4 then 0 else u.barCount a k) ∧
        t.numAt (a + 48 + 4 * (q.toNat % 4)) 4 = u.numAt (a + 32 + 4 * (q.toNat % 4)) 4 ∧
        t.numAt (a + 32 + 4 * (q.toNat % 4)) 4 = 0 ∧ u.sameBytesBut t a 64) ∧
    (ownRef u r → u.logNext = .act → u.me.wBar = .idle → u.badSector a 64 = true →
      faultsAs .w x.tk (.barr x) s (mkTrap .sectorCode (BitVec.ofNat 64 (8 * a)))) ∧
    (ownRef u r → u.logNext = .act → u.me.wBar = .idle → u.plain → u.barC a ≠ 0 → u.barN a + 4 ≤ q.toNat →
      ∃ t, exec (.barr x) s = .next t ∧ t.me.wait.get .w = .memory ∧ t.me.wBar = .waiting a q x.tk ∧ t.me.pc = u.me.pc ∧ u.sameBytes t ∧
        t.memory.arrivals = u.memory.arrivals ++ [⟨a, q, 0, u.me.part, r, .core u.cur⟩]) ∧
    (ownRef u r → u.logNext = .act → u.me.wBar = .idle → u.plain → u.barC a = 0 ∨ q.toNat < u.barN a →
      faultsAs .w x.tk (.barr x) s (mkTrap .barrierPhase 0 q r))) ∧
  (s.issuing .f x.tk = some u →
    let r := u.rd x.a
    let q := u.rd x.b
    let a := barrierAt u.me.part (wField r 0 22)
    validRef u r → ownRef u r → u.logNext = .act → u.me.fBar = .idle →
    (u.badSector a 64 = true → faultsAs .f x.tk (.bwait x) s (mkTrap .sectorCode (BitVec.ofNat 64 (8 * a)))) ∧
    (u.plain → let done (v : Word) : Prop := ∃ t, exec (.bwait x) s = .next t ∧
       retiredWith .f x.tk (u.logPut v) t (sansScalars (u.logPut v) t) ∧ scalarResult .f x.d (u.logPut v) t v
     (u.barC a = 0 → done 0xA0000000) ∧
     (u.barC a ≠ 0 → q.toNat + 4 < u.barN a → done 0x80000000) ∧
     (u.barC a ≠ 0 → q.toNat < u.barN a → u.barN a ≤ q.toNat + 4 → done (BitVec.ofNat 64 (u.numAt (a + 48 + 4 * (q.toNat % 4)) 4)))) ∧
    (u.plain → u.barC a ≠ 0 → u.barN a ≤ q.toNat → ∃ t, exec (.bwait x) s = .next t ∧ t.me.wait.get .f = .memory ∧
      t.me.fBar = .waiting a q x.tk ∧ t.me.pc = u.me.pc ∧ u.sameBytes t ∧ u.sameOthers t))

/-- R126 to R129, R157, R162, R163: SHAD opens a region over sectors of the partition's DRAM; PUBL makes its shadow sectors the contents and closes it, and faults where no such region is open, or where its address has no valid translation; INVL drops lines from L2 without a change of memory. -/
def Obligations.ShadowRegionsOpenAndPublish : Prop := ∀ (s u : State) (x : MW), s.issuing .w x.tk = some u →
  let a := (u.rd x.a).toNat
  let n := (u.rd x.b).toNat
  (∀ gs, a % 128 = 0 → n % 128 = 0 → 0 < n → n ≤ 2 ^ 36 → a + n ≤ 2 ^ 64 → u.logNext = .act → u.resolve .none [(a, n)] = .ok [gs] →
    (∀ g ∈ gs, u.ownsDram u.me.part (g.1 / 8) = true) →
    (∀ r ∈ u.memory.shadows, ∀ h ∈ r.ranges, ∀ g ∈ gs, h.1 + h.2 ≤ g.1 / 8 ∨ g.1 / 8 + g.2 / 8 ≤ h.1) →
    (u.memory.shadows.filter fun r => r.launch = u.launchId).length < 64 →
    ∃ t, exec (.shad x) s = .next t ∧ u.retired t .w x.tk ∧ t.me.scal = u.me.scal ∧
      t.memory.shadows = u.memory.shadows ++ [⟨u.launchId, u.me.part, u.rd x.a, n, gs.map fun g => (g.1 / 8, g.2 / 8)⟩] ∧
      (u.slotless → u.sameBytes t)) ∧
  (∀ f, u.resolve .none [(a, 1)] = .error (.trap f) → faultsAs .w x.tk (.publ x) s f) ∧
  (∀ r gs, u.resolve .none [(a, 1)] = .ok gs → (u.memory.shadows.find? fun y => y.launch == u.launchId && y.base == u.rd x.a) = some r → u.plain → u.slotless →
    (∀ p, inRegion r p = true → u.portOver (p / 16 * 16) 16 = false) → Sparse.wf 0 u.memory.shadowData = true →
    ∃ t, exec (.publ x) s = .next t ∧ retiredWith .w x.tk { u with memory := t.memory } t t.me ∧
      t.memory.shadows = u.memory.shadows.erase r ∧
      (∀ p, t.byteAt p = if inRegion r p = true ∧ u.memory.shadowData.get 0 (p / 16) ≠ 0 then
        BitVec.ofNat 8 (u.memory.shadowData.get 0 (p / 16) % 2 ^ 128 / 2 ^ (8 * (p % 16))) else u.byteAt p) ∧
      ∀ k, t.memory.shadowData.get 0 k = if inRegion r (16 * k) then 0 else u.memory.shadowData.get 0 k) ∧
  (∀ gs, u.resolve .none [(a, 1)] = .ok gs → (u.memory.shadows.find? fun y => y.launch == u.launchId && y.base == u.rd x.a) = none →
    faultsAs .w x.tk (.publ x) s (mkTrap .shadow (u.rd x.a))) ∧
  (n = 0 → ∃ t, exec (.invl x) s = .next t ∧ retiredWith .w x.tk u t t.me) ∧
  (∀ gs, 0 < n → a + n ≤ 2 ^ 64 → u.resolve .read [(a, n)] = .ok [gs] → u.slotless →
    ∃ t, exec (.invl x) s = .next t ∧ retiredWith .w x.tk { u with memory := t.memory } t t.me ∧
      { t.memory with lines := u.memory.lines, dirty := u.memory.dirty } = u.memory ∧ (∀ l ∈ t.memory.lines, l ∈ u.memory.lines) ∧
      ∀ g ∈ gs, ∀ b, g.1 ≤ b → b < g.1 + g.2 → b / 1024 ∉ t.memory.lines)

/-- R167 to R170: MGRP opens a command group at a stack, MROW adds its rows to it, and MCMT performs it and closes it. A group of one CLEAR leaves zeros in the row, one of one COPY the source row's bytes; no other byte changes, and bit 0 of the result is 0. -/
def Obligations.RowCommandsRunAsAGroup : Prop := ∀ (s u : State) (x : MW) (k : TaskId) (y : Task) (l : Launch), s.issuing .w x.tk = some u →
  u.taskOf u.cur = some (k, y, l) →
  (∀ a, u.rowAddrs [(.none, u.rd x.a)] = .ok [(a, true)] → y.group = none → u.stackGone (sliceOf a / 16) = false →
    ∃ t, exec (.mgrp x) s = .next t ∧ u.retired t .w x.tk ∧ t.me.scal = u.me.scal ∧ u.sameBytes t ∧ u.sameOthers t ∧
      t.task k = some { y with group := some ⟨sliceOf a / 16, [], false, some (sliceOf a), []⟩ }) ∧
  (∀ a c g, u.portPage a = none → y.group = some g → g.aborted = false → sliceOf a / 16 = g.stack →
    let rows (p : Nat) : List Nat := if x.ofs.val % 2 = 1 then blockRows p else [rowOf p]
    g.ops.length + (rows a).length ≤ 64 →
    let added (srcs : List (Option Nat)) (pages : List Nat) : Prop :=
      let h : Group := { g with ops := g.ops ++ List.zipWith (fun d c => ⟨d, c⟩) (rows a) srcs, pages := g.pages ++ pages }
      u.groupDown h = false → ∃ t, exec (.mrow x) s = .next t ∧ u.retired t .w x.tk ∧ t.me.scal = u.me.scal ∧
        u.sameBytes t ∧ u.sameOthers t ∧ t.task k = some { y with group := some h }
    (x.sub.val ≠ 1 → u.rowAddrs [(.write, u.rd x.a)] = .ok [(a, true)] →
      added ((rows a).map fun _ => none) [(u.rd x.a).toNat / 524288]) ∧
    (x.sub.val = 1 → u.rowAddrs [(.write, u.rd x.a), (.read, u.rd x.b)] = .ok [(a, true), (c, true)] → sliceOf c / 16 = g.stack →
      added ((rows c).map some) [(u.rd x.a).toNat / 524288, (u.rd x.b).toNat / 524288])) ∧
  (∀ g d c, (∀ p ∈ rowLines d ++ (if g.ops = [⟨d, none⟩] then [] else rowLines c), u.portOver p 128 = false) → y.group = some g →
    g.aborted = false → u.groupDown g = false → u.plain → u.slotless → u.memory.shadows = [] →
    g.ops = [⟨d, none⟩] ∨ (g.ops = [⟨d, some c⟩] ∧ c / 65536 = d / 65536 ∧ u.subarray c = u.subarray d) →
    ∃ t, exec (.mcmt x) s = .next t ∧ u.retired t .w x.tk ∧ scalarResult .w x.d u t 0 ∧
      t.task k = some { y with group := none } ∧
      (∀ i o, i < 16 → o < 128 → t.byteAt ((rowLines d).getD i 0 + o) =
        if g.ops = [⟨d, none⟩] then 0 else u.byteAt ((rowLines c).getD i 0 + o)) ∧
      ∀ p, (∀ q ∈ rowLines d, p < q ∨ q + 128 ≤ p) → t.byteAt p = u.byteAt p) ∧
  (y.group = none → faultsAs .w x.tk (.mcmt x) s (mkTrap .group))

/-- R326 to R329, R345 to R349: The Starter instructions complete once their tokens are there and their operands pass the checks of R349, where what they read lies on this module. SEEK gives the node reached and the tokens it stands for, raises its reference count and leaves its image in the scratchpad; one that reaches only the root gives 0. PIN and REL raise and lower REF by 1, and change no byte of memory outside the node; REL of a node whose REF is 0, and PIN of one whose REF is full, take the reference fault, whose record holds the node; a node that is not in use is a Starter fault, and a tree or node that cannot be read a sector-code fault. DROP gives the pages and references released. DEP gives a child that confirms the segment, or a new one, or, where no node can be found, the failure word. That a torn sector anywhere in the tree ends DROP and a DEP that makes a node, and that the fault's record holds the tree's header, is log 15 (DESIGN CHOICE). -/
def Obligations.StarterInstructionsActOnTheirTree : Prop := ∀ (s u w : State) (x : MW),
  (s.issuing .f x.tk = some u →
    let v := u.rd x.b
    let n := wField v 32 32
    let at_ := (u.rd x.a).toNat
    let tr := treeAt u.me.part (wField v 0 4)
    (∀ gs, at_ % 32 = 0 → wField v 8 16 + 32 ≤ 65536 → wField v 24 8 = 0 → n ≤ 2 ^ 24 → at_ + 32 * n ≤ 2 ^ 64 →
      u.resolve .read [(at_, 32 * n)] = .ok [gs] → (∀ g ∈ gs, u.ordinary g) → u.plain → u.edge.sramErr = [] → u.created tr = true → treeHere u tr →
      ∃ t, exec (.strSeek x) s = .next t ∧ u.retired t .f x.tk) ∧
    ∀ tr path miss, u.seek x = .ok (tr, path, miss, w) → w.slotless →
      let i := path.headD 0
      ∃ t, exec (.strSeek x) s = .next t ∧ w.retired t .f x.tk ∧ w.sameOthers t ∧
        scalarResult .f x.d w t (if i = 0 then 0 else BitVec.ofNat 64 (i * 2 ^ 32 + w.segTokens tr * (path.length - 1))) ∧
        (t.node tr i).ref = (if i = 0 then (w.node tr i).ref else (w.node tr i).ref + 1) ∧
        t.me.bankBits (wField v 4 4) (32 * wField v 8 16) 1024 = t.peekN (tr + 1048576 + 128 * i) 128 ∧
        { sansScalars w t with pc := w.me.pc, pass := w.me.pass, fifo := w.me.fifo, popped := w.me.popped, wait := w.me.wait,
                               fBar := w.me.fBar, pad := w.me.pad } = w.me) ∧
  (s.issuing .w x.tk = some u →
    (let tr := treeAt u.me.part (wField (u.rd x.a) 0 4)
     let i := wField (u.rd x.b) 0 32
     let n := u.node tr i
     let faults (f : Trap) : Prop := (wField (u.rd x.b) 32 32 = 0 → faultsAs .w x.tk (.strPin x) s f ∧ faultsAs .w x.tk (.strRel x) s f) ∧
       faultsAs .w x.tk (.strDrop x) s f
     (wField (u.rd x.a) 4 60 ≠ 0 → faults (mkTrap .starter (u.rd x.a))) ∧
     (wField (u.rd x.a) 4 60 = 0 → u.badSector tr 64 = true ∨ (i < u.nodeCap tr ∧ u.badNode tr i = true) →
       faults (mkTrap .sectorCode (BitVec.ofNat 64 (8 * tr)))) ∧
     (wField (u.rd x.a) 4 60 = 0 → u.plain → u.created tr = false ∨ u.nodeCap tr ≤ i ∨ n.used = false →
       faults (mkTrap .starter 0 0 (BitVec.ofNat 64 i))) ∧
     (wField (u.rd x.a) 4 60 = 0 → u.plain → u.created tr = true → i < u.nodeCap tr → n.used = true →
      (wField (u.rd x.b) 32 32 = 0 → n.ref < 2 ^ 32 - 1 → u.slotless →
        ∃ t, exec (.strPin x) s = .next t ∧ retiredWith .w x.tk { u with memory := t.memory } t t.me ∧
          t.node tr i = { n with ref := n.ref + 1, stamp := u.ccnt.toNat } ∧
          u.sameBytesBut t (tr + 1048576 + 128 * i) 128) ∧
      (wField (u.rd x.b) 32 32 = 0 → n.ref = 2 ^ 32 - 1 → faultsAs .w x.tk (.strPin x) s (mkTrap .reference 0 0 (BitVec.ofNat 64 i))) ∧
      (wField (u.rd x.b) 32 32 = 0 → 0 < n.ref → u.slotless →
        ∃ t, exec (.strRel x) s = .next t ∧ retiredWith .w x.tk { u with memory := t.memory } t t.me ∧
          t.node tr i = { n with ref := n.ref - 1 } ∧ u.sameBytesBut t (tr + 1048576 + 128 * i) 128) ∧
      (wField (u.rd x.b) 32 32 = 0 → n.ref = 0 → faultsAs .w x.tk (.strRel x) s (mkTrap .reference 0 0 (BitVec.ofNat 64 i))) ∧
      (treeHere u tr → u.me.wait.get .w ≠ .meet 51 → ∃ t, exec (.strDrop x) s = .next t ∧ u.retired t .w x.tk) ∧
      ∀ pages refs, u.dropNodes u.me.part tr ((u.ancestors tr 122880 i).filter fun k =>
          (u.node tr k).ownedBy u.ownerField && decide (wField (u.rd x.b) 32 32 < (u.node tr k).depth * u.segTokens tr)) =
            .ok (pages, refs, w) → w.slotless →
        ∃ t, exec (.strDrop x) s = .next t ∧ scalarResult .w x.d w t (BitVec.ofNat 64 (pages * 2 ^ 32 + refs)) ∧
          retiredWith .w x.tk w t (sansScalars w t))) ∧
    (∀ gs y v, (u.rd x.a).toNat % 512 = 0 → (u.rd x.a).toNat + 512 ≤ 2 ^ 64 →
      u.resolve .read [((u.rd x.a).toNat, 512)] = .ok [gs] → (∀ g ∈ gs, u.ordinary g) → u.plain → u.edge.sramErr = [] → u.movers.copies = [] →
      u.load .read (u.rd x.a).toNat 512 = .ok (y, v) → depositFits u y → treeHere u (treeAt u.me.part (field y 0 4)) →
      u.me.wait.get .w ≠ .meet 51 → ∃ t, exec (.strDep x) s = .next t ∧ u.retired t .w x.tk) ∧
    ∀ y v child miss, u.depositOf x = .ok (y, v) →
      v.confirm y.tree y.node.hash y.ids (v.kids y.tree y.parent) 0 = .ok (child, miss, w) →
      (∀ c, child = some c → (w.node y.tree c).ref < 2 ^ 32 - 1 →
        ∃ t, exec (.strDep x) s = .next t ∧ w.retired t .w x.tk ∧ (w.slotless → scalarResult .w x.d w t (BitVec.ofNat 64 c))) ∧
      (child = none → w.treeTorn y.tree = true → faultsAs .w x.tk (.strDep x) s (mkTrap .sectorCode (BitVec.ofNat 64 (8 * y.tree)))) ∧
      ∀ room, child = none → w.treeTorn y.tree = false → (∀ q ∈ y.pages, w.pageCount y.tree q + (y.pages.filter fun z => z = q).length < 2 ^ 32) →
        w.newNode y.tree y.parent y.node y.pages = .ok room →
        (room = none → ∃ t, exec (.strDep x) s = .next t ∧ w.retired t .w x.tk ∧
          (w.slotless → scalarResult .w x.d w t 0x80000000FFFFFFFF)) ∧
        ∀ c z, room = some (c, z) → ∃ t, exec (.strDep x) s = .next t ∧ z.retired t .w x.tk ∧
          (z.slotless → scalarResult .w x.d z t (BitVec.ofNat 64 (2 ^ 32 + c))))

/-- R292, R295, R320, R330 to R336, R342 to R344, R350 to R353: Requests to the Creamer are queued with an event to serve them; PLC.APP gives the entry of least length; PLC.UPD adds to one; a ring opens, yields its blocks in turn, and closes. That CHN.BEG at cycle T0 + 16 P itself is in time, that it reopens over a broken ring, that a ring is not open to CHN.NXT and CHN.END while CHN.BEG waits, and what CHN.END makes of the steps not yet taken are log 15 (DEDUCED, DESIGN CHOICE). -/
def Obligations.QueuedUnitsTakeRequests : Prop := ∀ (s u : State) (x : MW) (k : TaskId) (y : Task) (l : Launch),
  (s.issuing .w x.tk = some u → u.taskOf u.cur = some (k, y, l) → u.logNext = .act →
    (∀ i home gs, validRef u (u.rd x.d) →
      let va := (u.rd x.a).toNat
      let request (prom : Bool) (bits : Nat) : Prop :=
        va + bits ≤ 2 ^ 64 → u.resolve .read [(va, bits)] = .ok gs → u.objectOver va bits = some (i, home) → x.sub.val % 4 < home →
        y.crm < 16 → ∃ t, exec (if prom then .crmProm x else .crmDem x) s = .next t ∧ u.retired t .w x.tk ∧ t.me.scal = u.me.scal ∧
          t.movers.queue = u.movers.queue ++ [⟨k, l.order, l.seq, u.me.part, l.queue, prom, x.sub.val % 4, va / 524288, bits / 524288, i, u.rd x.d,
            u.rd (Fin.ofNat 32 (x.d.val + 1))⟩] ∧
          t.agenda = u.agenda ++ [(some (if prom then .promotion else .demotion), u.cur, u.eng)] ∧ (u.slotless → u.sameBytes t)
      (va % 524288 = 0 → (u.rd x.b).toNat % 524288 = 0 → (u.rd x.b).toNat ≠ 0 → request true (u.rd x.b).toNat) ∧ request false 1) ∧
    (∀ n bits es w, (u.rd x.a).toNat % 512 = 0 → u.tableBits (u.rd x.a) = .ok (n, bits, w) → w.entries (u.rd x.a) bits n = .ok es →
      ∃ t e acc len v, exec (.plcApp x) s = .next t ∧ es[e]? = some (acc, len) ∧
        (∀ e' p, es[e']? = some p → len < p.2 ∨ (len = p.2 ∧ (acc < p.1 ∨ (acc = p.1 ∧ e ≤ e')))) ∧
        v = BitVec.ofNat 64 (len * 2 ^ 32 + e * 2 ^ 16 + acc) ∧ scalarResult .w x.d (w.logPut v) t v ∧
        retiredWith .w x.tk (w.logPut v) t (sansScalars (w.logPut v) t)) ∧
    ((∀ z, y.ring = some z → z.opening = false ∧ z.broken = true) → u.edge.churn = [] → ∀ r w, u.openRing x = .ok (r, w) →
      ∃ t, exec (.chnBeg x) s = .next t ∧ t.me.wait.get .w = .memory ∧ t.me.pc = w.me.pc ∧
      t.ringOf k = some (if w.ccnt.toNat ≤ r.t0.toNat + 16 * r.period.toNat then r else { r with broken := true }) ∧
      some (.churnStepSend k) ∈ t.agenda.map fun z => z.1) ∧
    (∀ r, y.ring = some r → u.edge.churn = [] → r.opening = true → r.broken = false → u.ccnt.toNat ≤ r.t0.toNat + 16 * r.period.toNat →
      if r.arrived 0 = true then ∃ t, exec (.chnBeg x) s = .next t ∧ u.retired t .w x.tk ∧ t.me.scal = u.me.scal ∧
        (u.slotless → retiredWith .w x.tk { u with sched := t.sched, agenda := t.agenda } t t.me) ∧
        t.ringOf k = some { r with opening := false }
      else ∃ t, exec (.chnBeg x) s = .next t ∧ t.me.wait.get .w = .memory ∧ t.me.pc = u.me.pc ∧ t.ringOf k = some r) ∧
    (∀ r, y.ring = some r → u.edge.churn = [] → r.opening = false →
      if r.broken = true ∨ r.n ≤ r.sent + 1 then ∃ t, exec (.chnEnd x) s = .next t ∧ u.retired t .w x.tk ∧ t.me.scal = u.me.scal ∧
        t.ringOf k = none
      else ∃ t, exec (.chnEnd x) s = .next t ∧ t.me.wait.get .w = .memory ∧ t.me.pc = u.me.pc ∧
        t.ringOf k = some { r with nexts := r.n - 2, closing := true })) ∧
  (∀ n bits es w v, s.issuing .w x.tk = some u → (u.rd x.a).toNat % 512 = 0 →
    -(2 ^ 31) ≤ (u.rd x.d).toInt → (u.rd x.d).toInt < 2 ^ 31 → u.tableBits (u.rd x.a) = .ok (n, bits, w) →
    w.entries (u.rd x.a) bits n = .ok es → (u.rd x.b).toNat < es.length →
    (∀ p ∈ es, p.1 ≠ wField (w.rootCsr 592) 0 9 → w.routed p.1 = true) →
    w.store ((u.rd x.a).toNat + 512 + 64 * (u.rd x.b).toNat + 32) 32
      (((es.getD (u.rd x.b).toNat (0, 0)).2 + (u.rd x.d).toNat) % 2 ^ 32) = .ok v →
    ∃ t, exec (.plcUpd x) s = .next t ∧ v.retired t .w x.tk ∧ t.me.scal = v.me.scal ∧ v.sameOthers t ∧ (v.slotless → v.sameBytes t) ∧
      ((∀ p ∈ es, p.1 = wField (w.rootCsr 592) 0 9) → t.edge.out = v.edge.out)) ∧
  (∀ r, s.issuing .f x.tk = some u → u.taskOf u.cur = some (k, y, l) → u.logNext = .act → y.ring = some r → u.edge.churn = [] →
    r.broken = false → r.opening = false → r.closing = false → r.nexts + 3 ≤ r.n →
    let step := r.nexts + 1
    let v := BitVec.ofNat 64 ((r.me + 2 * r.n - 1 - step % r.n) % r.n * 2 ^ 32 + (r.bank * 2097152 + step % r.slots * (8 * r.bytes)))
    if r.arrived step = true then ∃ t, exec (.chnNxt x) s = .next t ∧ u.retired t .f x.tk ∧
        (u.slotless → scalarResult .f x.d u t v) ∧ t.ringOf k = some { r with nexts := step }
      else ∃ t, exec (.chnNxt x) s = .next t ∧ t.me.wait.get .f = .memory ∧ t.me.pc = u.me.pc ∧ t.ringOf k = some r)

/-- R30, R31, R40, R99, R106, R107, R156, R216, R309: What an engine does apart from instructions, and what reaches it: a word of another engine is passed, an illegal word faults, tokens are popped together or waited for, and a token deadlock faults once. A part of a split product that is awaited arrives, or fails while its unit is in a reset; a prefetch brings its lines into L2 and reports status 0 to its barrier, or 1 where its first page is not translated and 2 where it may not be read. A late lower tier ends a product that awaits a part from it, a promotion in its next read, with status 3, and an instruction in its next read that this tier serves; it ends nothing else. -/
def Obligations.EngineEvents : Prop := ∀ (s : State) (e : Eng) (k h : CoreId),
  (∀ long, gives (.skipWord long) s fun t =>
    s.me.movedOn t.me s.eng (s.me.pc.get s.eng + (if long then 64 else 32)) (if long then 2 else 1) ∧
    { t.me with pc := s.me.pc, pass := s.me.pass } = s.me ∧ s.onlyCore t) ∧
  (∀ sub, exec (.illegalInstruction e sub) s = .next (s.takeFault s.cur e { mkTrap .illegal with sub := match sub with
    | .reservedTag => 1 | .strayContinuation => 2 | .tokenBitsOnX => 3 | .shortWord => 4 | .malformedContinuation => 5
    | .unassignedOp => 6 | .reservedField => 7 })) ∧
  (∀ wb wa, let fs := popsOf e ⟨wb, wa, false, false⟩
    s.me.popped.get e = [] → gives (.tokenPop e wb wa) s fun t =>
      if ∀ q ∈ fs, s.me.tokens q ≠ [] then
        (∀ q, t.me.tokens q = if q ∈ fs then (s.me.tokens q).tail else s.me.tokens q) ∧
        { t.me with fifo := s.me.fifo, popped := s.me.popped, popAt := s.me.popAt, wait := s.me.wait } = s.me ∧ s.onlyCore t
      else t.me.wait = s.me.wait.set e (.pop (maskOf fs)) ∧ { t.me with wait := s.me.wait } = s.me ∧ s.onlyCore t) ∧
  (s.me.deadlocked = true → ∃ x, s.me.wait.get x ≠ .ended ∧ (∀ y, y.num < x.num → s.me.wait.get y = .ended) ∧
    exec .tokenDeadlockFault s = .next (s.takeFault s.cur x (mkTrap .deadlock))) ∧
  (s.me.deadlocked = false → exec .tokenDeadlockFault s = .next s) ∧
  (if h ∉ s.awaitedParts k then exec (.partsRequestReturn k h) s = .next s
   else if h ∈ s.edge.inReset then exec (.partsRequestReturn k h) s = .next (s.takeFault k .m (mkTrap .lowerTier))
   else gives (.partsRequestReturn k h) s fun t => (∀ j, j ∈ (t.core k).parts ↔ j = h ∨ j ∈ (s.core k).parts) ∧
     { t.core k with parts := (s.core k).parts } = s.core k ∧ (∀ j, j ≠ k → t.core j = s.core j) ∧ { t with cores := s.cores } = s) ∧
  (s.movers.prefetches = [] → exec .prefetchArrival s = .next s) ∧
  (∀ x rest, s.movers.prefetches = x :: rest →
    (gives .prefetchArrival s fun t => t.movers.prefetches = rest) ∧
    (∀ gs, s.resolveAs x.mode x.part .read [(x.va.toNat, x.bits.toNat)] = .ok [gs] → s.memory.check = [] → s.memory.clrRows = [] → ∃ u : State,
      { u with memory := { u.memory with lines := s.memory.lines }, movers := s.movers } = s ∧
      u.movers = { s.movers with prefetches := rest } ∧
      (∀ g ∈ gs, s.region (g.1 / 8) = .dram ∨ s.region (g.1 / 8) = .flash → ∀ b, g.1 ≤ b → b < g.1 + g.2 → b / 1024 ∈ u.memory.lines) ∧
      exec .prefetchArrival s = .next (u.complete x.part x.ref x.phase 0)) ∧
    ∀ y ys c, pagePieces x.va.toNat x.bits.toNat = y :: ys → s.pageOf x.mode x.part (y.1 / 524288) .read = .error c →
      exec .prefetchArrival s = .next (({ s with movers := { s.movers with prefetches := rest } } : State).complete
        x.part x.ref x.phase (if c = .translation then 1 else 2))) ∧
  (s.atInstruction k e = true → gives (.lowerTierDeadline (.instrRead k e)) s fun t =>
    t.edge.late = s.edge.late ++ [⟨k, e, (s.core k).pc.get e, none, Cls.lowerTier.code⟩] ∧ { t with edge := { t.edge with late := s.edge.late } } = s) ∧
  (s.atInstruction k e = false → exec (.lowerTierDeadline (.instrRead k e)) s = .next s) ∧
  (∀ x ∈ s.edge.late, x.stack = none → x.core = s.cur → x.eng = s.eng → x.pc = s.me.pc.get s.eng → ∀ va bits g,
    s.servedBelow va bits = true → pagePieces va bits = [(va, bits)] → isRemote s g = false →
    s.readPages va bits [g] = .error (.trap (mkTrap .lowerTier))) ∧
  ((∃ j ∈ s.awaitedParts k, 256 ≤ j) → exec (.lowerTierDeadline (.parts k)) s = .next (s.takeFault k .m (mkTrap .lowerTier))) ∧
  ((∀ j ∈ s.awaitedParts k, j < 256) → exec (.lowerTierDeadline (.parts k)) s = .next s) ∧
  (s.movers.run = none → exec (.lowerTierDeadline .creamer) s = .next s) ∧
  (∀ r, s.movers.run = some r → s.nextPage r = none → exec (.lowerTierDeadline .creamer) s = .next s) ∧
  (∀ r vp, s.movers.run = some r → s.nextPage r = some vp →
    exec (.lowerTierDeadline .creamer) s = .next (s.failPromotion r.req r.room 3 vp) ∧
    (s.failPromotion r.req r.room 3 vp).movers.run = none ∧
    (s.failPromotion r.req r.room 3 vp).movers.queue = s.movers.queue) ∧
  (∀ t j, exec (.lowerTierDeadline (.slab t j)) s = exec (.slabMove t j false) s) ∧
  ∀ t, exec (.lowerTierDeadline (.handOver t)) s = exec (.handOverCopyDone t .late) s

/-- R257 to R264, R267, R270 to R274: Appends, periods, issues and queue resets. An append to an enabled queue with room is accepted at its tail, and any other counts in REF; a period boundary puts the configuration written into force and gives each queue its allowance less what it repays; one ready queue with allowance has its held launch released, or the launch of its head record begun, unless the last issue is less than 16 cycles old. A core at the start of a task. Program counters stand at the entry, scalars are 0 but s1, which holds ARG, the CSRs hold the role, group, location and the header's values, and registers, banks and the weight store keep what they held. -/
def Obligations.LaunchesStartAndIssue : Prop :=
  (∀ (s : State) (p : PartId) (q : Fin 64) (ws : List Word),
  let i := 64 * p.val + q.val
  let x := s.queue i
  (x.cfg.getLsbD 0 = true → x.pending.length < Config.queueDepth → gives (.append p q ws) s fun t =>
    t.queue i = { x with acc := (x.acc + 1) % 2 ^ 48, pending := x.pending ++ [(x.acc, ws)], idle := false } ∧
    (∀ j, j ≠ i → t.queue j = s.queue j) ∧ { t with sched := { t.sched with queues := s.sched.queues }, agenda := s.agenda } = s) ∧
  (x.cfg.getLsbD 0 = false ∨ Config.queueDepth ≤ x.pending.length → gives (.append p q ws) s fun t =>
    t.queue i = { x with ref := min 65535 (x.ref + 1) } ∧ ∀ j, j ≠ i → t.queue j = s.queue j) ∧
  (gives (.queueReset p q) s fun t => (t.queue i).pending = [] ∧ (t.queue i).acc = x.acc ∧ t.launch i = s.launch i ∧
    (x.fin < 2 ^ 48 → (t.queue i).fin = (x.fin + x.pending.length) % 2 ^ 48)) ∧
  (gives .periodBoundary s fun t =>
    (∀ j y, assoc s.sched.queues j = some y →
      let a := wField y.next 32 32
      let pay := min y.debt (a / 4)
      t.queue j = { y with cfg := y.next, balance := min y.balance 0 + a - pay, debt := y.debt - pay, issued := false,
                           idle := y.pending.isEmpty && (s.launch j).isNone }) ∧
    t.sched.launches = s.sched.launches ∧ t.cores = s.cores ∧ t.memory = s.memory) ∧
  ((∀ j ∈ s.sched.queues.map (·.1), s.issueReady j = false) → gives .schedulerIssue s fun t =>
    { t with sched := { t.sched with queues := s.sched.queues } } = s ∧ ∀ j, t.queue j = { s.queue j with since := none }) ∧
  (0 < s.issueGap → gives .schedulerIssue s fun t =>
    { t with sched := { t.sched with queues := s.sched.queues, pool := s.sched.pool }, agenda := s.agenda } = s ∧
    ∀ j, (t.queue j).pending = (s.queue j).pending ∧ (t.queue j).issued = (s.queue j).issued) ∧
  (∀ j, (s.sched.queues.map (·.1)).filter s.issueReady = [j] → 0 < (s.queue j).balance → s.issueGap = 0 →
    ∃ u : State, { u with sched := { u.sched with queues := s.sched.queues, rr := s.sched.rr, lastIssue := s.sched.lastIssue } } = s ∧
      (∀ m, u.queue m = { s.queue m with issued := if m = j then true else (s.queue m).issued, since := none }) ∧
      u.sched.lastIssue = some s.ccnt ∧ exec .schedulerIssue s = .next ((if (s.launch j).isSome then u.release j else u.startLaunch j).pushOnce .schedulerIssue))) ∧
  (  ∀ (c : Core) (t : TaskId) (p ent role h : Nat) (group arg pc : Word) (e : Eng),
  let d := c.startState t p ent role group arg pc h
  d.pc.get e = pc ∧ d.pass.get e = 0 ∧ d.getS e 1 = arg ∧ (∀ r, r < 32 → r ≠ 1 → d.getS e r = 0) ∧
  d.getC e 0 = BitVec.ofNat 64 role ∧ d.getC e 1 = group ∧ d.getC e 2 = BitVec.ofNat 64 (entCore ent / 256) ∧
  d.getC e 3 = BitVec.ofNat 64 (entCore ent % 256) ∧ d.getC e 16 = BitVec.ofNat 64 (h / 2 ^ 128) ∧ d.getC e 17 = 16 + 64 * 65536 ∧
  d.getC e 23 = 1 ∧ (∀ b, b < 16 → d.getC e (32 + b) = if (h / 2 ^ 192).testBit b then BitVec.ofNat 64 (h / 2 ^ (256 + 64 * b)) else 0) ∧
  (∀ n, n < 256 → n ∉ [0, 1, 2, 3, 16, 17, 23] → (n < 32 ∨ 48 ≤ n) → d.getC e n = 0) ∧ (∀ k, d.tokens k = []) ∧ d.wait.get e = .run ∧
  d.mode = .tile ∧ d.part = p ∧ d.owner = some t ∧ d.stopped = none ∧ d.vreg = c.vreg ∧ d.acc = c.acc ∧ d.pred = c.pred ∧ d.gen = c.gen ∧
  d.win = c.win ∧ d.pad = c.pad ∧ d.wst = c.wst ∧ d.scl = c.scl)

/-- R83, R120, R121, R130, R132, R276 to R280, R353, R398, R406, R446: The steps of a running launch: its commands, of a step that a task has left those not yet run, are put in order by time, role and place in program order, and windows of an earlier superstep to which nothing contributes are mapped again; a command waits for its time, and a copy between scratchpads moves its bits; after the last command the merged result of a window that spans modules is added to its dest, and a window that the switch has given up ends the launch with status 2; a launch whose tasks have all ended finishes once no ring of its tasks is open; a watchdog stops the tasks that lag; a pre-emption strikes at a boundary, in a communication step, when its request is 50 µs old or when the watchdog limit has run out, once, and not the launch that has ended or whose hand-over is under way; its deadline finds nothing more where no instruction is under way; an abort ends the launch, or has it wait for the page lists of its nodes on other modules, and discards its open regions. That a saved launch's communication step stands still is log 17 (DEDUCED), that one which a task has left goes on after its last command is log 17 (DESIGN CHOICE), that an abort waits for page lists elsewhere is log 15 (DEDUCED), and that a merged result is added after all commands is log 22 (DEDUCED). -/
def Obligations.LaunchEvents : Prop := ∀ (s : State) (id : LaunchId) (l : Launch),
  (s.launch id = some l → l.phase = .comm → l.preempt ≠ .saved → gives (.communicationStep id) s fun t =>
    let quiet := l.spanning.filter fun w => !(l.wins.any fun v => v.rcd == w.rcd)
    let now := quiet.filterMap fun w => match s.resolveAs (modeOf id) l.part .write [(w.base, w.n * w.ty.width)] with
      | .ok gss => some { w with dest := gss.headD [] }
      | .error _ => none
    let todo := l.cmds.filter fun c => match l.ran with
      | none => true
      | some k => decide (k.1 < c.notBefore ∨ (k.1 = c.notBefore ∧ (k.2.1 < c.role ∨ (k.2.1 = c.role ∧ k.2.2 < c.pos))))
    ∃ cs, t.launch id = some { l with
      cmds := cs, spanning := [], wins := l.wins ++ now, doom := if now.length = quiet.length then l.doom else some 2 } ∧
    cs.Perm todo ∧ cs.Pairwise (fun a b => a.notBefore < b.notBefore ∨ (a.notBefore = b.notBefore ∧
      (a.role < b.role ∨ (a.role = b.role ∧ a.pos ≤ b.pos)))) ∧ (quiet = [] → t.cores = s.cores ∧ t.memory = s.memory)) ∧
  (s.launch id = some l → l.phase ≠ .comm ∨ l.preempt = .saved → exec (.communicationStep id) s = .next s ∧ exec (.bteCommand id) s = .next s) ∧
  (∀ c rest, s.launch id = some l → l.phase = .comm → l.cmds = c :: rest → (s.ccnt - l.released).toNat < c.notBefore →
    exec (.bteCommand id) s = .next s) ∧
  (∀ c rest r1 o1 r2 o2 n x y, s.launch id = some l → l.phase = .comm → l.cmds = c :: rest → c.notBefore ≤ (s.ccnt - l.released).toNat →
    c.work = .copy (.pad r1 o1) (.pad r2 o2) n → s.task (id * 256 + r1) = some x → s.task (id * 256 + r2) = some y → l.preempt ≠ .saved →
    y.launch = id → x.launch = id → x.core ≠ stepAsker id → y.core ≠ stepAsker id → x.kept = none → y.kept = none → s.tornPad x.core o1 n = false →
    gives (.bteCommand id) s fun t => t.launch id = some { l with cmds := rest, ran := some (c.notBefore, c.role, c.pos) } ∧ (∀ j, j ≠ stepAsker id → j ≠ y.core → t.core j = s.core j) ∧
      ∀ b, ((t.core y.core).pad.get 0 (b / 8)).getLsbD (b % 8) = if o2 ≤ b ∧ b < o2 + n then
        ((s.core x.core).pad.get 0 ((o1 + (b - o2)) / 8)).getLsbD ((o1 + (b - o2)) % 8) else ((s.core y.core).pad.get 0 (b / 8)).getLsbD (b % 8)) ∧
  (∀ w g (x : Gathered), s.launch id = some l → id < 1024 → l.phase = .comm → l.preempt = .none → l.cmds = [] → l.doom = none → l.arrived = [] →
    l.wins = [w] → w.spans = true → s.atHome w = true → w.ty ∈ [Ty.f32, .bf16, .f16] → 0 < w.n → w.n ≤ 896 / w.ty.width → w.dest = [g] →
    g.1 % 8 = 0 → g.2 = w.n * w.ty.width → s.plain → s.memory.shadows = [] → s.ordinary g → s.flashHeld [g] = false → s.edge.partials = [x] →
    w.named l.part x = true → x.what = .merged → x.piece = 0 → gives (.bteCommand id) s fun t =>
      let size := w.ty.width / 8
      t.edge.partials = [] ∧ (∀ i, i < w.n → t.numAt (g.1 / 8 + i * size) size =
        addIn w.ty (s.numAt (g.1 / 8 + i * size) size) (natOfBytes ((x.data.drop (i * size)).take size)) % 2 ^ w.ty.width) ∧
      ∀ a, a < g.1 / 8 ∨ g.1 / 8 + w.n * size ≤ a → t.byteAt a = s.byteAt a) ∧
  (∀ w ∈ l.wins, s.launch id = some l → l.ending = none → l.phase = .comm → l.preempt ≠ .saved → l.cmds = [] → l.doom = none →
    s.mergeLost l.part w = true → gives (.bteCommand id) s fun t => t.launch id = none ∨ ∃ m, t.launch id = some m ∧ m.ending = some 2) ∧
  (s.launch id = some l → l.ending.isSome = true → exec (.launchFinish id) s = .next (s.endLaunch id)) ∧
  (s.launch id = some l → id < 1024 → l.ending = none → l.phase = .held → l.ended.length = l.n →
    (∀ x ∈ s.sched.tasks, x.2.launch = id → x.2.ring = none) → gives (.launchFinish id) s fun t => t.launch id = none ∧
      (∀ x ∈ t.sched.tasks, x.2.launch ≠ id) ∧
      (t.queue (64 * l.part + l.queue)).fin = ((s.queue (64 * l.part + l.queue)).fin + 1) % 2 ^ 48) ∧
  (s.launch id = some l → l.ending = none → 1024 ≤ id ∨ l.phase ≠ .held ∨ l.ended.length ≠ l.n → exec (.launchFinish id) s = .next s) ∧
  (∀ x r, s.launch id = some l → id < 1024 → l.ending = none → l.phase = .held → l.ended.length = l.n → x ∈ s.sched.tasks → x.2.launch = id → x.2.ring = some r →
    r.broken = false → gives (.launchFinish id) s fun t => { t with agenda := s.agenda } = s ∧
      some (.launchFinish id) ∈ t.agenda.map (fun z => z.1) ∧ some (.churnStepSend x.1) ∈ t.agenda.map fun z => z.1) ∧
  (s.launch id = some l → s.expired id l = true → gives (.watchdogFault id) s fun t => ∀ x ∈ s.sched.tasks, x.2.launch = id →
    x.2.role ∉ l.arrived → x.2.role ∉ l.ended → (s.core x.2.core).mode = .tile → (s.core x.2.core).stopped = none → x.2.core < 768 →
    (t.core x.2.core).stopped = some 29) ∧
  (s.launch id = some l → s.expired id l = false → exec (.watchdogFault id) s = .next s) ∧
  (s.launch id = some l → l.preempt = .pending → l.ended.length ≠ l.n → l.moving = [] → (l.phase ≠ .running ∨ s.overdue l = true ∨ s.expired id l = true) →
    s.edge.sramErr = [] → s.memory.check = [] →
    gives (.preemptionStrike id) s fun t => ∃ m, t.launch id = some m ∧ m.preempt = .saved ∧ m.table = l.table ∧ m.arrived = l.arrived) ∧
  (s.launch id = some l → l.preempt = .pending → l.ended.length ≠ l.n → l.moving ≠ [] ∨ (l.phase = .running ∧ s.overdue l = false ∧ s.expired id l = false) →
    exec (.preemptionStrike id) s = .next s) ∧
  (s.launch id = some l → l.preempt = .pending → l.ended.length = l.n → gives (.preemptionStrike id) s fun t =>
    t.launch id = some { l with preempt := .none }) ∧
  (s.launch id = some l → l.preempt ≠ .pending → exec (.preemptionStrike id) s = .next s) ∧
  ((∀ x ∈ s.sched.tasks, x.2.launch = id → assoc s.cores (ghostOf x.1) = none) →
    exec (.preemptionDeadline id) s = exec (.preemptionStrike id) s) ∧
  (∀ (p : PartId) (q : Fin 64), gives (.launchAbort p q) s fun t =>
    (t.launch (64 * p.val + q.val) = none ∨ ∃ m, t.launch (64 * p.val + q.val) = some m ∧ m.ending.isSome = true) ∧
    (∀ j, j ≠ 64 * p.val + q.val → t.launch j = s.launch j) ∧ ∀ r ∈ t.memory.shadows, r.launch ≠ 64 * p.val + q.val)

/-- R297 to R302, R305: A completed hand-over puts the state of the task on the new unit and frees the old one; an abandoned one leaves the task where it was; a slab moves to the task's unit, or stays and is tried again; none moves while an instruction of M that waits reads slabs. -/
def Obligations.HandOverEvents : Prop := ∀ (s : State) (t : TaskId) (x : Task) (l : Launch) (m : Nat × Word × Bool) (j : Fin 1024),
  s.task t = some x → s.launch x.launch = some l →
  (let k := entCore m.2.1.toNat
   (l.moving.find? fun y => y.1 == x.role) = some m → k ≠ x.core → s.tornWord x.core = false → s.memory.check = [] → gives (.handOverCopyDone t .done) s fun u =>
     (u.task t).map (fun y => y.core) = some k ∧ (u.core x.core).owner = none ∧ (u.core k).owner = (s.core x.core).owner ∧
     (u.core k).scal = (s.core x.core).scal ∧ (u.core k).vreg = (s.core x.core).vreg ∧ (u.core k).acc = (s.core x.core).acc ∧
     (u.core k).pred = (s.core x.core).pred ∧ (u.core k).pad = (s.core x.core).pad ∧ (u.core k).gen = (s.core x.core).gen ∧
     (u.core k).win = (s.core x.core).win ∧ (u.core k).fifo = (s.core x.core).fifo ∧ (u.core k).wst = (s.core k).wst ∧
     (∀ e, (u.core k).getC e 2 = BitVec.ofNat 64 (k / 256) ∧ (u.core k).getC e 3 = BitVec.ofNat 64 (k % 256)) ∧
     (u.launch x.launch).map (fun y => y.table) = some (l.table.set x.role (BitVec.ofNat 64 m.2.1.toNat))) ∧
  (∀ r, r ≠ .done → (l.moving.find? fun y => y.1 == x.role) = some m → s.tornWord x.core = false → gives (.handOverCopyDone t r) s fun u =>
    (u.task t).map (fun y => y.core) = some x.core ∧ (u.launch x.launch).map (fun y => (y.table, y.moving)) =
      some (l.table, l.moving.filter fun y => y.1 ≠ x.role) ∧ (u.core x.core).scal = (s.core x.core).scal ∧
      (u.core x.core).owner = (s.core x.core).owner) ∧
  (x.saved.isSome = true → ∀ ok, exec (.slabMove t j ok) s = .next s) ∧
  ((s.core x.core).holder.get 0 j.val ≠ 0 → x.saved = none → (s.core x.core).wait.m = .memory → ∀ ok,
    exec (.slabMove t j ok) s = .next (s.pushOnce (.slabMove t j ok))) ∧
  (∀ h, (s.core x.core).holder.get 0 j.val = h + 1 → x.saved = none → (s.core x.core).wait.m ≠ .memory → s.tornSlab h j.val = false → s.memory.check = [] →
    gives (.slabMove t j true) s (fun u => (u.core x.core).holder.get 0 j.val = 0 ∧
      (∀ o, o < 12288 → slabByte (u.core x.core) j.val o = slabByte (s.core h) j.val o) ∧
      (∀ o, o < 1024 → scaleByte (u.core x.core) j.val o = scaleByte (s.core h) j.val o) ∧
      (∀ k, k ≠ x.core → u.core k = s.core k) ∧ s.sameBytes u) ∧
    gives (.slabMove t j false) s (fun u => (u.core x.core).holder = (s.core x.core).holder ∧ (u.core x.core).wst = (s.core x.core).wst ∧
      some (.slabMoveRetry t j true) ∈ u.agenda.map fun y => y.1)) ∧
  ((s.core x.core).holder.get 0 j.val = 0 → exec (.slabMove t j true) s = .next s) ∧
  ∀ ok, exec (.slabMoveRetry t j ok) s = exec (.slabMove t j ok) s

/-- R288 to R296, R302, R364, R367 to R372, R379, R382, R383, R390, R402, R405, R419, R458: The Creamer, the walkers, the clearing and stack engines, scrub, and records that waited. The Creamer takes one request at a time, the partitions in turn and of each the one queued first, a demotion also while a promotion is in progress (log 18, DEDUCED); a promotion publishes its pages together once all are read, and a demotion lets copies leave. A walk is cached; a hot row throttles its bank for the window. A watchdog reset stops the unit's task and clears the unit, except the slabs it holds for other tasks. A pending row is cleared, the lowest first, and the last is reported. Scrub corrects, and an uncorrectable word stops its task. Records that waited go out in order; WAKE wakes a core that halts, or is kept for it. What a reset leaves of the task is log 17 (DEDUCED). -/
def Obligations.UnitEvents : Prop := ∀ (s : State),
  (s.movers.run = none → (∀ r, s.nextRequest = some r → r.promote = false) → exec .promotion s = .next s) ∧
  (s.movers.run.isSome = true → ∀ r, s.nextRequest = some r → r.promote = false) ∧
  (∀ r, s.nextRequest = some r → r ∈ s.movers.queue ∧ (∀ pre post, s.movers.queue = pre ++ r :: post → r ∉ pre → ∀ q ∈ pre, q.part ≠ r.part) ∧
    ∀ i, i < 16 → (∃ q ∈ s.movers.queue, q.part = (s.movers.last + 1 + i) % 16) →
      ∃ j, j ≤ i ∧ r.part = (s.movers.last + 1 + j) % 16) ∧
  (∀ r, s.nextRequest = some r → r.promote = true → gives .promotion s fun t =>
    t.movers.queue = s.movers.queue.erase r ∧ t.movers.last = r.part ∧ t.movers.copies.length ≤ s.movers.copies.length) ∧
  (∀ r, s.movers.run = some r → gives .promotion s fun t => t.movers.queue = s.movers.queue) ∧
  (s.movers.run = none → exec .promotionPublish s = .next s) ∧
  (∀ r, s.movers.run = some r → (s.nextPage r).isSome = true → exec .promotionPublish s = .next s) ∧
  (∀ r, s.movers.run = some r → s.nextPage r = none → gives .promotionPublish s fun t => t.movers.run = none ∧ t.movers.copies = s.movers.copies ++ r.shadow ∧
    t.movers.queue = s.movers.queue) ∧
  (gives .demotion s fun t => (∀ c ∈ t.movers.copies, c ∈ s.movers.copies) ∧ t.movers.run = s.movers.run ∧
    t.movers.queue = (match s.nextRequest with | some r => if r.promote then s.movers.queue else s.movers.queue.erase r | none => s.movers.queue)) ∧
  (∀ p va, s.memory.check = [] → s.memory.clrRows = [] → gives (.pageWalk p va) s fun t => { t with memory := { t.memory with tlb := s.memory.tlb } } = s ∧ s.sameBytes t ∧
    (∀ x ∈ s.memory.tlb, x ∈ t.memory.tlb) ∧
    ∀ e level, s.walk p.val (wField va 19 39) = .ok (e, level) → ∃ x ∈ t.memory.tlb, x.1 = p.val ∧ x.2.1 = wField va 19 39) ∧
  (∀ ch bank row, gives (.hotRowRefresh ch bank row) s fun t => s.sameBytes t ∧ t.cores = s.cores ∧
    t.edge.acts.get 0 (rowKey (ch / 4) (ch % 4) bank row) = 2048 ∧ rowKey (ch / 4) (ch % 4) bank row / 65536 ∈ t.edge.throttled) ∧
  (∀ ch, gives (.activationWindowEnd ch) s fun t => s.sameBytes t ∧ t.cores = s.cores ∧ (∀ b ∈ t.edge.throttled, b / 32 ≠ ch) ∧
    (∀ k, k / 65536 / 32 = ch → t.edge.acts.get 0 k = 0) ∧ ∀ k, k / 65536 / 32 ≠ ch → t.edge.acts.get 0 k = s.edge.acts.get 0 k) ∧
  (∀ e : Fin 192, gives (.stackEngineWatchdog e) s fun t => 256 + e.val ∈ t.edge.inReset ∧
    (256 + e.val ∉ s.edge.inReset → (t.core (256 + e.val)).pad = [] ∧ (t.core (256 + e.val)).scal = [] ∧ (t.core (256 + e.val)).vreg = [] ∧
      ((s.core (256 + e.val)).owner.isSome = true → (s.core (256 + e.val)).mode = .tile → (s.core (256 + e.val)).stopped = none →
        (t.core (256 + e.val)).stopped = some 30) ∧
      ∀ j o k, j < 1024 → o < 12288 → k ≠ 256 + e.val → (s.core k).owner.isSome = true → (s.core k).holder.get 0 j = 256 + e.val + 1 →
        slabByte (t.core (256 + e.val)) j o = slabByte (s.core (256 + e.val)) j o) ∧
    (256 + e.val ∈ s.edge.inReset → t.cores = s.cores) ∧
    some (.rstd (Fin.ofNat 12 (e.val / 16)) (Fin.ofNat 16 e.val)) ∈ t.agenda.map fun y => y.1) ∧
  (∀ k : Fin 12, let mine := s.memory.clrRows.filter fun x => decide (x.1 < (16 * k.val + 16) * 8388608) && decide (16 * k.val * 8388608 < x.2)
    if mine = [] then gives (.clearingEngineRow k) s fun t => { t with agenda := s.agenda } = s ∧
      ∃ p, some (.clrd k p) ∈ t.agenda.map fun y => y.1
    else gives (.clearingEngineRow k) s fun t => ∃ row, (∃ x ∈ mine, x.1 = row) ∧ (∀ x ∈ mine, row ≤ x.1) ∧
      inIntervals t.memory.clrRows row = false ∧ (∀ r, r ≠ row → inIntervals t.memory.clrRows r = inIntervals s.memory.clrRows r) ∧
      (∀ a ∈ rowLines row, ∀ o, o < 128 → t.memory.bytes.get 0 (a + o) = 0) ∧ t.cores = s.cores) ∧
  (∀ k, gives (.sramScrub k) s fun t => (∀ x ∈ t.edge.sramErr, x ∈ s.edge.sramErr) ∧ (∀ x ∈ t.edge.sramErr, x.1 = k → x.2.2 = false) ∧
    ((∃ x ∈ s.edge.sramErr, x.1 = k ∧ x.2.2 = false ∧ x.2.1 < 8388608) → (s.core k).owner.isSome = true → (s.core k).mode = .tile → (s.core k).stopped = none →
      k < 768 → (t.core k).stopped = some 42)) ∧
  (∀ row, gives (.dramScrub row) s fun t => s.sameBytes t ∧ t.cores = s.cores ∧ t.memory.clrRows = s.memory.clrRows) ∧
  (∀ root p, (∀ r ∈ s.edge.records, ¬(r.root = root ∧ (root = true ∨ r.part = p.val))) → exec (.recordWrite root p) s = .next s) ∧
  (∀ root p, gives (.recordWrite root p) s fun t => t.edge.records.Sublist s.edge.records) ∧
  (∀ v : BitVec 6, let k := if v.getLsbD 5 then rootId else 768 + v.toNat
    gives (.wakeWrite v) s fun t => (v.getLsbD 5 = true ∨ v.toNat < 20) →
      ((∀ e, (s.core k).wait.get e = .meet 51) → ∀ e, (t.core k).wait.get e = .run ∧ (t.core k).pc.get e = (s.core k).pc.get e + 32 ∧
        (t.core k).pass.get e = (s.core k).pass.get e + 1) ∧
      ((∃ e, (s.core k).wait.get e ≠ .meet 51) → k ∈ t.edge.wakes ∧ t.cores = s.cores)) ∧
  (∀ v : BitVec 6, v.getLsbD 5 = false → 20 ≤ v.toNat → exec (.wakeWrite v) s = .next s)

/-- R361, R362, R378, R381, R386, R404, R426, R436: Activation puts a record without reserved bits into force; a reset leaves every unit of the partition zero, without launches, copies, shadow regions or cached translations of it; disabling resets, and EN falls. A record with reserved bits or a misaligned PTR, FNB or FNL (log 21, DEDUCED), one whose PTR lies outside its own slices, and one that would share a granule, flash or a virtual function with an enabled partition is refused: a CSR-value fault of the root core. A record in an uncorrectable sector gives it the sector-code fault (log 11, DEDUCED). A reset is one step (log 21, DESIGN CHOICE). -/
def Obligations.PartitionEvents : Prop := ∀ (s : State) (p : PartId),
  let clean (t : State) : Prop := (∀ k, (s.part p.val).hasUnit k = true → t.core k = { Core.zero with defective := (s.core k).defective }) ∧
    (∀ i, i < 1024 → i / 64 = p.val → t.launch i = none) ∧ (∀ x ∈ t.memory.tlb, x.1 ≠ p.val) ∧ (∀ r ∈ t.memory.shadows, r.part ≠ p.val) ∧
    (∀ c ∈ t.movers.copies, c.part ≠ p.val) ∧ (t.part p.val).meas = [] ∧ (t.part p.val).log = []
  (gives (.pactReset p) s fun t => clean t ∧ (t.part p.val).enabled = (s.part p.val).enabled) ∧
  (gives (.pactDisable p) s fun t => clean t ∧ (t.part p.val).enabled = false ∧ (t.part p.val).used = false) ∧
  (∀ vf : Fin 16, s.partOfVf vf.val = some p.val → exec (.functionLevelReset vf) s = exec (.pactReset p) s) ∧
  (∀ vf : Fin 16, s.partOfVf vf.val = none → exec (.functionLevelReset vf) s = .next s) ∧
  (∀ addr, s.badSector (wField addr 6 46 * 64) 64 = true → exec (.pactActivate p addr) s =
    .next (s.takeFault rootId s.eng (mkTrap .sectorCode (BitVec.ofNat 64 (8 * (wField addr 6 46 * 64)))))) ∧
  (∀ addr, s.badSector (wField addr 6 46 * 64) 64 = false → partOfRecord (s.numAt (wField addr 6 46 * 64) 64) = none → exec (.pactActivate p addr) s =
    .next (s.takeFault rootId s.eng (mkTrap .csrValue 528 (addr ||| BitVec.ofNat 64 p.val)))) ∧
  (∀ addr y, s.badSector (wField addr 6 46 * 64) 64 = false → partOfRecord (s.numAt (wField addr 6 46 * 64) 64) = some y →
    s.dramBytes ≤ y.ptr ∨ y.slc.testBit (sliceOf y.ptr / 4) = false ∨
      (y.enabled = true ∧ ∃ o ∈ s.parts, o.1 ≠ p.val ∧ o.2.enabled = true ∧ (y.shares o.2 = true ∨ y.vfn = o.2.vfn)) →
    exec (.pactActivate p addr) s = .next (s.takeFault rootId s.eng (mkTrap .csrValue 528 (addr ||| BitVec.ofNat 64 p.val)))) ∧
  (∀ addr y, s.badSector (wField addr 6 46 * 64) 64 = false → partOfRecord (s.numAt (wField addr 6 46 * 64) 64) = some y → y.ptr < s.dramBytes → y.slc.testBit (sliceOf y.ptr / 4) = true →
    (y.enabled = true → ∀ o ∈ s.parts, o.1 ≠ p.val → o.2.enabled = true → y.shares o.2 = false ∧ y.vfn ≠ o.2.vfn) →
    gives (.pactActivate p addr) s fun t => { t.part p.val with meas := y.meas, log := y.log, used := y.used, left := y.left } = y) ∧
  (∀ image ty, gives (.imageMeasurement p image ty) s fun t =>
    (t.part p.val).meas = sha512 (measured (s.part p.val).meas ++ sha512 image ++ bytesOfNat 8 ty.toNat) ∧
    (t.part p.val).log = (s.part p.val).log ++ [(ty.toNat, sha512 image)] ∧ t.cores = s.cores ∧ t.memory = s.memory)

/-- R263, R304, R397, R404, R408, R424, R425, R440: What scheduler and root firmware ask for by a CSR write. What a rule refuses is a CSR-value fault of the control core that writes. That an FDEM of an object leaves the queued promotions, that a pre-emption of a launch that has made its final arrival is dropped with a record, and that a resume whose image cannot be read ends the launch is log 17 (DEDUCED, DESIGN CHOICE), and that PSTL of tables with an uncorrectable sector takes the sector-code fault log 11 (DEDUCED). -/
def Obligations.FirmwareActions : Prop := ∀ (s : State) (p : PartId) (q : Fin 64) (role : Fin 256) (k : Nat), s.ctlOf p.val = some k →
  let id := 64 * p.val + q.val
  let ended (t : State) : Prop := t.launch id = none ∨ ∃ m, t.launch id = some m ∧ m.ending.isSome = true
  let refused (i : Instr) (n : Nat) (v : Word) : Prop := exec i s = .next (s.takeFault (768 + k) s.eng (mkTrap .csrValue (BitVec.ofNat 64 n) v))
  (∀ v : Word, let x := s.queue id
    if v.getLsbD 3 = true ∨ wField v 5 27 ≠ 0 then refused (.qcfgWrite p q v) (320 + q.val) v
    else gives (.qcfgWrite p q v) s fun t => (t.queue id).next = v ∧ (t.queue id).cfg.getLsbD 0 = v.getLsbD 0 ∧
      (∀ b, b ≠ 0 → (t.queue id).cfg.getLsbD b = x.cfg.getLsbD b) ∧ (∀ j, j ≠ id → t.queue j = s.queue j) ∧ t.cores = s.cores) ∧
  (∀ v : Word, let r := wField v 8 8
    let i := 64 * p.val + wField v 0 6
    (wField v 6 2 ≠ 0 ∨ wField v 16 16 ≠ 0 → refused (.pbindWrite p v) 288 v) ∧
    ∀ l, wField v 6 2 = 0 → wField v 16 16 = 0 → s.launch i = some l → (l.n ≤ r → refused (.pbindWrite p v) 288 v) ∧
      (r < l.n → gives (.pbindWrite p v) s fun t => t.cores = s.cores ∧ ∃ m, t.launch i = some m ∧ { m with pbind := l.pbind } = l ∧
        ∀ j, m.pbind.get 0 j = if j = r then (if v.getLsbD 63 then 2 ^ 32 + wField v 32 32 else 0) else l.pbind.get 0 j)) ∧
  (s.launch id = none → refused (.preqPreempt p q) 289 (BitVec.ofNat 64 (256 + q.val)) ∧ refused (.preqResume p q) 289 (BitVec.ofNat 64 (512 + q.val)) ∧
    refused (.rcvrReplay p q role) 290 (BitVec.ofNat 64 (q.val + 256 * role.val)) ∧
    refused (.rcvrAbort p q role) 290 (BitVec.ofNat 64 (q.val + 256 * role.val + 131072))) ∧
  (∀ l, s.launch id = some l →
    (l.preempt = .none → l.ended.length = l.n → gives (.preqPreempt p q) s fun t => t.launch id = some l) ∧
    (l.preempt = .none → l.ended.length ≠ l.n → gives (.preqPreempt p q) s fun t => t.launch id = some { l with preempt := .pending, asked := s.ccnt } ∧ t.cores = s.cores) ∧
    (l.preempt ≠ .none → exec (.preqPreempt p q) s = .next s) ∧
    (l.preempt ≠ .saved → exec (.preqResume p q) s = .next s) ∧
    (∀ r, l.preempt = .saved → s.badResume id l = none → s.tornImage id l = some r → gives (.preqResume p q) s ended) ∧
    (l.preempt = .saved → s.badResume id l = none → s.tornImage id l = none → gives (.preqResume p q) s fun t =>
      ∃ m, t.launch id = some m ∧ m.preempt = .none ∧ m.table = l.table) ∧
    ∀ c, role.val < l.n → s.stoppedClass (id * 256 + role.val) = some c →
      (gives (.rcvrAbort p q role) s ended) ∧
      (s.mayReplay (id * 256 + role.val) = false → gives (.rcvrReplay p q role) s ended) ∧
      (s.mayReplay (id * 256 + role.val) = true → gives (.rcvrReplay p q role) s fun t => ∃ m, t.launch id = some m ∧ m.table = l.table ∧
        role.val ∉ m.arrived ∧ (∀ z ∈ m.cmds, z ∈ l.cmds ∧ z.role ≠ role.val)) ∧
      (∀ ent : BitVec 32, s.mayReplay (id * 256 + role.val) = false →
        s.entryFits p.val ent.toNat (match s.task (id * 256 + role.val) with | some x => if x.saved.isSome then none else some x.core | none => none) = true →
        (∀ y ∈ l.table.zipIdx, y.2 ≠ role.val → entCore y.1.toNat ≠ entCore ent.toNat) →
        gives (.rcvrRebindReplay p q role ent) s ended) ∧
      (∀ ent : BitVec 32, s.mayReplay (id * 256 + role.val) = true →
        s.entryFits p.val ent.toNat (match s.task (id * 256 + role.val) with | some x => if x.saved.isSome then none else some x.core | none => none) = true →
        (∀ y ∈ l.table.zipIdx, y.2 ≠ role.val → entCore y.1.toNat ≠ entCore ent.toNat) →
        gives (.rcvrRebindReplay p q role ent) s fun t => ∃ m, t.launch id = some m ∧ m.table = l.table.set role.val (ent.setWidth 64) ∧
          role.val ∉ m.arrived ∧ (∀ z ∈ m.cmds, z ∈ l.cmds ∧ z.role ≠ role.val)) ∧
      (∀ ent : BitVec 32, entOk ent.toNat = false → gives (.rcvrRebindReplay p q role ent) s fun t => t.sched = s.sched ∧
        s.stoppedClass (id * 256 + role.val) = t.stoppedClass (id * 256 + role.val))) ∧
  (∀ (ent : BitVec 32) l, s.launch id = some l → role.val < l.n →
    let now := field (l.table.getD role.val 0).toNat 16 2
    if entOk ent.toNat = true ∧ now < field ent.toNat 16 2 then gives (.fdemRole p q role ent) s fun t => t.cores = s.cores ∧
        t.launch id = some { l with fdem := l.fdem.put 0 role.val (2 ^ 32 + ent.toNat) }
      else refused (.fdemRole p q role ent) 291 (BitVec.ofNat 64 (q.val + 256 * role.val + ent.toNat * 2 ^ 32))) ∧
  (∀ (tier : Fin 4) (obj : BitVec 32), 2 ≤ tier.val ∨ wField (s.partCsr p.val 273) 0 17 ≤ obj.toNat →
    refused (.fdemObject p tier obj) 291 (BitVec.ofNat 64 (65536 + tier.val * 1048576 + obj.toNat * 2 ^ 32))) ∧
  (∀ (tier : Fin 4) (obj : BitVec 32) a, tier.val < 2 → obj.toNat < wField (s.partCsr p.val 273) 0 17 → (s.objects p.val)[obj.toNat]? = some a →
    s.badRecord a = false →
    if s.objectHome a ≤ tier.val then refused (.fdemObject p tier obj) 291 (BitVec.ofNat 64 (65536 + tier.val * 1048576 + obj.toNat * 2 ^ 32))
    else gives (.fdemObject p tier obj) s fun t => t.movers.queue = s.movers.queue ∧
      ∀ c ∈ t.movers.copies, c ∈ s.movers.copies) ∧
  (s.badSector (s.rootCsr 595).toNat 2304 = true → exec .pstlLoad s =
    .next (s.takeFault rootId s.eng (mkTrap .sectorCode (BitVec.ofNat 64 (8 * (s.rootCsr 595).toNat))))) ∧
  (s.plain → s.portOver (s.rootCsr 595).toNat 2304 = false → gives .pstlLoad s fun t => { t with edge := { t.edge with slotTab := s.edge.slotTab } } = s ∧
    ∀ o, t.edge.slotTab.get 128 o = if 69632 ≤ o ∧ o < 69632 + 2304 then s.byteAt ((s.rootCsr 595).toNat + (o - 69632)) &&& 0x8F
      else s.edge.slotTab.get 128 o)

/-- R390, R419, R428 to R430: A record stands at the tail of its queue, whose tail advances by one, and the cores that halt in the queue's mode wake, or the event is kept; while the queue is full, is served by no core, or holds records back, it waits, and nothing else changes. Which queue wakes a mode is log 11 (DEDUCED). -/
def Obligations.RecordsStandInTheirQueues : Prop := ∀ (s : State) (root : Bool) (p : Nat) (ws : List Nat),
  let held := (∃ r ∈ s.edge.records, r.root = root ∧ (root = true ∨ r.part = p))
  let t := s.record root p ws
  let waits := { t with edge := { t.edge with records := s.edge.records } } = s ∧ t.edge.records = s.edge.records ++ [⟨root, p, recordBytes ws⟩]
  let written (base tail k : Nat) : Prop := t.edge.records = s.edge.records ∧
    (s.plain → s.portOver (base + 256 * tail) 256 = false → ∀ a, t.byteAt a = if base + 256 * tail ≤ a ∧ a < base + 256 * tail + 256 then (recordBytes ws).getD (a - (base + 256 * tail)) 0 else s.byteAt a) ∧
    { t with cores := s.cores, memory := s.memory, edge := s.edge } = s ∧
    (let halts (j : CoreId) : Prop := s.queueOf j = k ∧ (s.core j).mode ≠ .tile ∧ ∀ e, (s.core j).wait.get e = .meet 51
     (∀ j, ¬halts j → t.core j = s.core j) ∧
     (∀ j, halts j → ∀ e, (t.core j).wait.get e = .run ∧ (t.core j).pc.get e = (s.core j).pc.get e + 32 ∧
       (t.core j).pass.get e = (s.core j).pass.get e + 1) ∧
     ((∀ j, ¬halts j) → queueWake k ∈ t.edge.wakes))
  (held → waits) ∧
  (¬held → root = true → let head := wField (s.rootCsr 577) 0 16 % 256
    let tail := wField (s.rootCsr 578) 0 16
    ((tail + 1) % 256 = head → waits) ∧
    ((tail + 1) % 256 ≠ head → written (s.rootCsr 576).toNat tail rootId ∧ (t.rootCsr 578).toNat = (tail + 1) % 256 ∧
      ∀ j, j ≠ 578 → t.rootCsr j = s.rootCsr j)) ∧
  (¬held → root = false → (s.ctlOf p = none → waits) ∧
    ∀ k, s.ctlOf p = some k → let n := max 1 (wField (s.ctl k 275) 0 17)
      let head := wField (s.ctl k 278) 0 16 % n
      let tail := wField (s.ctl k 279) 0 16
      ((tail + 1) % n = head → waits) ∧
      ((tail + 1) % n ≠ head → written (s.ctl k 274).toNat tail (768 + k) ∧ (t.ctl k 279).toNat = (tail + 1) % n ∧
        ∀ j, j ≠ 279 → j < 4096 → t.ctl k j = s.ctl k j))

/-- R257, R258, R435 to R438: The host's reads and writes of ordinary memory through BAR2, appends and other writes at a port page through BAR2 and BAR0, reads of queue statuses and of the MSI-X table, accesses that no partition serves, the status block and the root mailbox of the physical function. While a posted write of a function waits, its later accesses wait in the order in which they came. Function number 16 of the physical function, where the MSI-X table and its pending bits lie, that a pending vector is sent when its mask is lifted, and the layout of BAR0 of the physical function are log 8 (PRESUMED, DESIGN CHOICE). -/
def Obligations.HostAccesses : Prop := ∀ (s : State) (vf : Fin 16) (ofs len : Nat) (bytes : List Byte) (r : HostRegion),
  let n := 8 * bytes.length
  let data (v : Nat) (bs : List Byte) : State := s.emit (.hostData v bs)
  (r ≠ .pf → s.partOfVf vf.val = none → exec (.hostMemoryRead ⟨vf, r⟩ ofs len) s = .next (s.emit (.hostError vf.val false)) ∧
    gives (.hostMemoryWrite ⟨vf, r⟩ ofs bytes) s fun t => { t with edge := { t.edge with posted := s.edge.posted } } = s) ∧
  (∀ p x, r ≠ .pf → s.partOfVf vf.val = some p → (s.edge.posted.find? fun y => y.1 == vf.val) = some x →
    exec (.hostMemoryRead ⟨vf, r⟩ ofs len) s = .next (s.push (.hostMemoryRead ⟨vf, r⟩ ofs len)) ∧
    let all := s.edge.posted ++ [(vf.val, r, ofs, bytes)]
    ∀ u, bytes ≠ [] → ({ s with edge := { s.edge with posted := all.erase x } } : State).hostWrite vf p x.2.1 x.2.2.1 x.2.2.2 = .error (.wait u) →
      gives (.hostMemoryWrite ⟨vf, r⟩ ofs bytes) s fun t => { t with edge := { t.edge with posted := u.edge.posted }, agenda := u.agenda } = u ∧
        t.edge.posted = all ∧ some (.hostMemoryWrite ⟨vf, .memory⟩ 0 []) ∈ t.agenda.map fun z => z.1) ∧
  (∀ p, s.partOfVf vf.val = some p → s.edge.posted = [] →
    (∀ g, 8 * ofs + 8 * len ≤ 2 ^ 64 → s.resolveAs .tile p .read [(8 * ofs, 8 * len)] = .ok [[g]] → s.plain → s.movers.copies = [] → s.ordinary g →
      gives (.hostMemoryRead ⟨vf, .memory⟩ ofs len) s fun t => ∃ bs, t.edge.out = s.edge.out ++ [.hostData vf.val bs] ∧ bs.length = len ∧
        (∀ i, i < 8 * len → (bs.getD (i / 8) 0).getLsbD (i % 8) = s.bitAt (g.1 + i)) ∧ s.sameBytes t ∧
        ∀ k, k ≠ hostAsker vf.val → t.core k = s.core k) ∧
    (∀ f, 8 * ofs + 8 * len ≤ 2 ^ 64 → s.resolveAs .tile p .read [(8 * ofs, 8 * len)] = .error (.trap f) →
      gives (.hostMemoryRead ⟨vf, .memory⟩ ofs len) s fun t => t.edge.out = s.edge.out ++ [.hostError vf.val (f.cls == 41)] ∧ t.memory = s.memory ∧
        t.cores = s.cores) ∧
    (ofs + len ≤ 65536 → exec (.hostMemoryRead ⟨vf, .port⟩ ofs len) s = .next (data vf.val ((List.range len).map fun i => s.portByte p (ofs + i)))) ∧
    (ofs + len ≤ 16384 → exec (.hostMemoryRead ⟨vf, .msix⟩ ofs len) s =
      .next (data vf.val ((List.range len).map fun i => s.msixByte vf.val (ofs + i)))) ∧
    (∀ g, s.resolveAs .tile p .write [(8 * ofs, n)] = .ok [[g]] → s.plain → s.memory.shadows = [] → s.ordinary g → s.flashHeld [g] = false →
      gives (.hostMemoryWrite ⟨vf, .memory⟩ ofs bytes) s fun t =>
        (∀ b, t.bitAt b = if g.1 ≤ b ∧ b < g.1 + n then (bytes.getD ((b - g.1) / 8) 0).getLsbD ((b - g.1) % 8) else s.bitAt b) ∧
        t.edge = s.edge ∧ ∀ k, k ≠ hostAsker vf.val → t.core k = s.core k) ∧
    (∀ gs (q : PartId) (i : Fin 64) ws x, s.resolveAs .tile p .write [(8 * ofs, n)] = .ok [gs] →
      (gs.map fun g => s.portPage (g.1 / 8)).findSome? id = some x → s.appendOf (cutOver gs (natOfBytes bytes)) = some (q.val, i.val, ws) →
      exec (.hostMemoryWrite ⟨vf, .memory⟩ ofs bytes) s = exec (.append q i ws) s) ∧
    (∀ g q o, s.resolveAs .tile p .write [(8 * ofs, n)] = .ok [[g]] → s.portPage (g.1 / 8) = some (q, o) →
      s.appendOf (cutOver [g] (natOfBytes bytes)) = none →
      exec (.hostMemoryWrite ⟨vf, .memory⟩ ofs bytes) s = .next (s.rootRecord 8 (if o < 4096 then o / 64 else 0) o 0)) ∧
    (∀ f, s.resolveAs .tile p .write [(8 * ofs, n)] = .error f → exec (.hostMemoryWrite ⟨vf, .memory⟩ ofs bytes) s = .next (s.hostDrop p ofs)) ∧
    (let at_ : Seg := (8 * ((s.rootCsr (544 + p)).toNat + ofs), n)
     ofs + bytes.length ≤ 65536 → bytes ≠ [] →
     (∀ (q : PartId) (i : Fin 64) ws, s.appendOf [(at_, natOfBytes bytes)] = some (q.val, i.val, ws) →
       exec (.hostMemoryWrite ⟨vf, .port⟩ ofs bytes) s = exec (.append q i ws) s) ∧
     (s.appendOf [(at_, natOfBytes bytes)] = none →
       exec (.hostMemoryWrite ⟨vf, .port⟩ ofs bytes) s = .next (s.rootRecord 8 (if ofs < 4096 then ofs / 64 else 0) ofs 0))) ∧
    ∀ v b, v < 65 → gives (.hostMemoryWrite ⟨vf, .msix⟩ (16 * v + 12) [b]) s fun t => t.msixByte vf.val (16 * v + 12) = b &&& 1 ∧
      (t.edge.out = if b.getLsbD 0 = false ∧ 128 * vf.val + v ∈ s.edge.msixPend then s.edge.out ++ [.msix vf.val v] else s.edge.out)) ∧
  (ofs + len ≤ 65536 → exec (.hostMemoryRead ⟨vf, .pf⟩ ofs len) s = .next (data 16 ((List.range len).map fun i => s.statusByte (ofs + i)))) ∧
  (4096 ≤ ofs → ofs < 8192 → exec (.hostMemoryWrite ⟨vf, .pf⟩ ofs bytes) s = exec (.rootMailboxWrite bytes) s) ∧
  (ofs < 4096 ∨ 8192 ≤ ofs → exec (.hostMemoryWrite ⟨vf, .pf⟩ ofs bytes) s = .next s) ∧
  ∃ a b, exec (.rootMailboxWrite bytes) s = .next (s.rootRecord 11 2 a b)

/-- R330, R331, R333, R351, R442: A Churn send whose step has begun and whose block is there goes to its successor: into the free slot of a member on this module, or onto the link in pieces of 112 bytes, the first block after the flit that opens the ring; where no port leads to the successor, the ring breaks. A first send to a member whose ring of that opening time has another number or shape breaks both rings; one whose successor has not opened yet is tried until the time to open has passed, and a later send of which the successor takes nothing counts as made. A ring is named by its number and its opening time (log 15, DESIGN CHOICE). A send that may not go yet is tried again; one of a broken ring sends nothing, and stops a running task whose F waits at no CHN.NXT with a churn-break fault, which W raises (log 15, DEDUCED). A ring whose first block has not come once T0 + 16 P has passed, from a member that has not opened it, breaks, at its members on this module, and the modules of the others are told. The opening and break flits, their offsets and tags are log 14 (DESIGN CHOICE). -/
def Obligations.ChurnSendsAndTimeouts : Prop := ∀ (s : State) (t : TaskId) (x : Task) (r : Ring) (l : Launch), s.edge.churn = [] →
  let u := r.sent
  let begun := r.t0.toNat + u * r.period.toNat ≤ s.ccnt.toNat ∧ (u = 0 ∨ r.arrived (u - 1) = true)
  let ready := r.broken = false ∧ u + 2 ≤ r.n ∧ s.openLate t r = false ∧ begun
  let from_ := if u = 0 then r.own else r.slotBit (u - 1)
  (s.ringOf t = none → exec (.churnStepSend t) s = .next s ∧ exec (.churnOpenTimeout t) s = .next s) ∧
  (s.ringOf t = some r → r.n < u + 2 ∨ (r.broken = true ∧ ¬begun) → exec (.churnStepSend t) s = .next s) ∧
  (s.ringOf t = some r → r.broken = false → u + 2 ≤ r.n → s.openLate t r = false → ¬begun →
    exec (.churnStepSend t) s = .next (s.pushOnce (.churnStepSend t))) ∧
  (s.task t = some x → x.ring = some r → s.launch x.launch = some l → r.broken = true → u + 2 ≤ r.n → begun →
    let c := s.core x.core
    if l.phase = .running ∧ x.role ∉ l.arrived ∧ x.role ∉ l.ended ∧ r.opening = false ∧ r.closing = false ∧ x.saved = none ∧
      c.owner = some t ∧ c.stopped = none ∧ s.waitsAtNxt x.core = false
    then exec (.churnStepSend t) s = .next (s.takeFault x.core .w (mkTrap .churnBreak)) else exec (.churnStepSend t) s = .next s) ∧
  (s.task t = some x → x.ring = some r → s.launch x.launch = some l → x.role ∉ l.ended → ready → s.memberTask t r.succ = none →
    s.savedAt t = none → s.tornPad x.core from_ r.bits = false → s.routed r.succ.1 = false → gives (.churnStepSend t) s fun v =>
      v.ringOf t = some { r with broken := true } ∧ v.cores = s.cores ∧ v.memory = s.memory) ∧
  (s.task t = some x → x.ring = some r → s.launch x.launch = some l → x.role ∉ l.ended → ready → s.memberTask t r.succ = none →
    s.savedAt t = none → s.tornPad x.core from_ r.bits = false → r.succ.1 < 512 → s.routed r.succ.1 = true → gives (.churnStepSend t) s fun v =>
      ∃ ps, v.ringOf t = some { r with sent := u + 1, ports := ps } ∧ v.cores = s.cores ∧ v.memory = s.memory ∧
      ∃ fs : List (Option Nat × Flit), (∀ f ∈ fs, ∀ k, f.1 = some k → k ∈ ps) ∧ v.edge.out = s.edge.out ++ (fs.map fun f => Out.berast f.1 f.2) ∧
        fs.length = (if u = 0 then 1 else 0) + (r.bytes + 111) / 112 ∧
        ∀ f ∈ fs, f.1 = s.portFor r.succ.1 f.2.addr.toNat ∧ f.2.kind = 6 ∧ f.2.dst.toNat % 512 = r.succ.1 ∧ f.2.tag = BitVec.ofNat 12 u) ∧
  (∀ v z y, s.task t = some x → x.ring = some r → s.launch x.launch = some l → x.role ∉ l.ended → ready → s.memberTask t r.succ = some v →
    v ≠ t → s.task v = some z → z.ring = some y → s.savedAt t = none → s.savedAt v = none →
    x.kept = none → s.tornPad x.core from_ r.bits = false →
    (y.broken = false ∧ y.t0 = r.t0 ∧ y.rid = r.rid ∧ y.n = r.n ∧ y.slots = r.slots ∧ y.bytes = r.bytes) → (u < y.slots ∨ y.freed (u - y.slots) = true) →
    gives (.churnStepSend t) s fun w => w.ringOf t = some { r with sent := u + 1 } ∧
      (w.ringOf v).map (fun a => a.arrived u) = some true ∧ (∀ j, j ≠ z.core → w.core j = s.core j) ∧ w.memory = s.memory ∧
      ∀ b, ((w.core z.core).pad.get 0 (b / 8)).getLsbD (b % 8) = if y.slotBit u ≤ b ∧ b < y.slotBit u + y.bits then
        ((s.core x.core).pad.get 0 ((from_ + (b - y.slotBit u)) / 8)).getLsbD ((from_ + (b - y.slotBit u)) % 8)
        else ((s.core z.core).pad.get 0 (b / 8)).getLsbD (b % 8)) ∧
  (∀ v z y, s.task t = some x → x.ring = some r → s.launch x.launch = some l → x.role ∉ l.ended → ready → s.memberTask t r.succ = some v →
    s.task v = some z → z.ring = some y → s.savedAt t = none → s.tornPad x.core from_ r.bits = false →
    (y.broken = false ∧ y.t0 = r.t0 ∧ y.rid = r.rid ∧ y.n = r.n ∧ y.slots = r.slots ∧ y.bytes = r.bytes) → y.slots ≤ u → y.freed (u - y.slots) = false →
    exec (.churnStepSend t) s = .next (s.pushOnce (.churnStepSend t))) ∧
  (∀ v, s.task t = some x → x.ring = some r → s.launch x.launch = some l → x.role ∉ l.ended → ready → s.memberTask t r.succ = some v →
    s.savedAt t = none → s.tornPad x.core from_ r.bits = false →
    let takes (y : Ring) : Prop := y.broken = false ∧ y.t0 = r.t0
    let same (y : Ring) : Prop := y.rid = r.rid ∧ y.n = r.n ∧ y.slots = r.slots ∧ y.bytes = r.bytes
    (∀ y, u = 0 → s.ringOf v = some y → takes y → ¬(y.rid = r.rid ∧ y.shape = r.shape) → gives (.churnStepSend t) s fun w =>
      w.ringOf t = some { r with broken := true } ∧ w.ringOf v = some { y with broken := true } ∧ w.cores = s.cores ∧ w.memory = s.memory) ∧
    (u = 0 → (∀ y, s.ringOf v = some y → ¬takes y) → if r.t0.toNat + 16 * r.period.toNat < s.ccnt.toNat
      then gives (.churnStepSend t) s fun w => w.ringOf t = some { r with broken := true } ∧ w.cores = s.cores ∧ w.memory = s.memory
      else exec (.churnStepSend t) s = .next (s.pushOnce (.churnStepSend t))) ∧
    (u ≠ 0 → (∀ y, s.ringOf v = some y → ¬(takes y ∧ same y)) → gives (.churnStepSend t) s fun w =>
      w.ringOf t = some { r with sent := u + 1 } ∧ w.cores = s.cores ∧ w.memory = s.memory ∧ w.edge.out = s.edge.out ∧
        (v ≠ t → w.ringOf v = s.ringOf v))) ∧
  (s.ringOf t = some r → r.opening = false ∨ r.arrived 0 = true ∨ s.ccnt.toNat ≤ r.t0.toNat + 16 * r.period.toNat →
    exec (.churnOpenTimeout t) s = .next s) ∧
  (s.ringOf t = some r → r.broken = false → r.opening = true → r.arrived 0 = false → r.t0.toNat + 16 * r.period.toNat < s.ccnt.toNat →
    (s.memberTask t r.pred = none → r.checked = false) →
    (∀ a y, s.memberTask t r.pred = some a → s.ringOf a = some y → y.rid = r.rid → y.t0 = r.t0 → y.broken = true) →
    gives (.churnOpenTimeout t) s fun v => v.cores = s.cores ∧ v.memory = s.memory ∧
      (∀ a y, a = t ∨ (∃ m ∈ r.members, s.memberTask t m = some a) → s.ringOf a = some y → y.rid = r.rid → y.t0 = r.t0 →
        v.ringOf a = some { y with broken := true }) ∧
      ∀ m ∈ r.members, m.1 ≠ s.ownAcc → m.1 < 512 → s.routed m.1 = true → ∃ f : Flit, .berast (s.portFor m.1 f.addr.toNat) f ∈ v.edge.out ∧
        f.kind = 6 ∧ f.dst.toNat % 512 = m.1)

/-- R116, R155, R344, R373, R441, R443, R447, R451: What home slices do with a request of a partition from outside the cores. Sectors that it owns in ordinary memory outside shadow regions are read, merged under their masks or changed atomically, and the request is answered; one for no partition, for memory that the partition does not own or that is not installed is answered with an error, and changes nothing. A barrier is initialised, an arrival is made or withdrawn, a wait is answered or filed, or refused where the record is in an uncorrectable sector (log 12, DEDUCED), and a placement delta is added once and acknowledged, dropped with a record where it finds no mapping, or tried again where a die accepts no write yet. The payloads of ATOM, BAR, WR and PLCD, withdrawal as operation 3 and its answer 2^33 are log 14 (DESIGN CHOICE). -/
def Obligations.HomeSlicesServeRequests : Prop := ∀ (s : State) (who : Asker) (p addr n : Nat) (bs : List Byte),
  let owned := 0 < n ∧ s.ownsSectors p addr n = true ∧ addr + 16 * n ≤ s.dramBytes ∧ s.plain ∧ s.memory.shadows = [] ∧ addr % 16 = 0 ∧
    (∀ a, addr ≤ a → a < addr + 16 * n → s.portPage a = none) ∧ ∀ i, i < n → s.ordinary (8 * (addr + 16 * i), 128)
  let num (o k : Nat) : Nat := natOfBytes ((bs.drop o).take k)
  (∀ kind, s.serve who none kind addr n bs = s.answerTo who 62 [1]) ∧
  (∀ kind ∈ [1, 2, 3], s.dramBytes < addr + 16 * n → s.serve who (some p) kind addr n bs = s.answerTo who 62 [2]) ∧
  (∀ kind ∈ [1, 2, 3], addr + 16 * n ≤ s.dramBytes → s.ownsSectors p addr n = false →
    s.serve who (some p) kind addr n bs = s.answerTo who 62 [1]) ∧
  (owned → ∃ u : State, s.sameBytes u ∧ { u with memory := { u.memory with lines := s.memory.lines } } = s ∧
    s.serve who (some p) 1 addr n bs = u.answerTo who 33 ((List.range (16 * n)).map fun i => s.byteAt (addr + i))) ∧
  (owned → ∃ u : State, s.serve who (some p) 2 addr n bs = u.answerTo who 34 [] ∧ u.edge = s.edge ∧ u.cores = s.cores ∧
    (∀ i j, i < n → j < 128 → u.bitAt (8 * (addr + 16 * i) + j) =
      if (num (32 * i + 16) 16).testBit j then (num (32 * i) 16).testBit j else s.bitAt (8 * (addr + 16 * i) + j)) ∧
    ∀ b, b < 8 * addr ∨ 8 * (addr + 16 * n) ≤ b → u.bitAt b = s.bitAt b) ∧
  (let w := widthOf (num 1 1 % 8)
   let o := num 2 1
   owned → n = 1 → o % w = 0 → o + w ≤ 128 → ∃ (u : State) (old : Nat), s.serve who (some p) 3 addr n bs = u.answerTo who 35 (bytesOfNat 8 old) ∧
    old < 2 ^ w ∧ (∀ i, i < w → old.testBit i = s.bitAt (8 * addr + o + i)) ∧ u.edge = s.edge ∧ u.cores = s.cores ∧
    ∀ b, u.bitAt b = if 8 * addr + o ≤ b ∧ b < 8 * addr + o + w then
      (atomNew (num 0 1 % 16) w old (num 8 8 % 2 ^ w) (num 16 8 % 2 ^ w)).testBit (b - (8 * addr + o)) else s.bitAt b) ∧
  (let a := barrierAt p (num 8 8 % 4194304)
   let v := BitVec.ofNat 64 (num 16 8)
   (num 0 8 % 256 = 0 → v ≠ 0 → v.toNat ≤ 65535 → s.serve who (some p) 4 addr n bs = (s.initBarrier a v.toNat).answerTo who 36 [0, 0, 0, 0, 0, 0, 0, 0]) ∧
   (num 0 8 % 256 = 2 → (s.tookOwn a 64).badSector a 64 = true → s.serve who (some p) 4 addr n bs = (s.tookOwn a 64).answerTo who 62 [1]) ∧
   (num 0 8 % 256 = 2 → s.plain → s.waitStatus a v = none → s.serve who (some p) 4 addr n bs =
     s.setMemory { s.memory with waits := s.memory.waits ++ [(a, v, who)] }) ∧
   (num 0 8 % 256 = 1 → s.serve who (some p) 4 addr n bs =
     s.deposit ⟨a, v, BitVec.ofNat 64 (num 0 8 / 256), p, BitVec.ofNat 64 (num 8 8), who⟩) ∧
   (num 0 8 % 256 = 3 → (∀ y ∈ s.memory.arrivals, y.rcd = a → y.who.same who = false) → s.serve who (some p) 4 addr n bs = s) ∧
   (num 0 8 % 256 = 3 → (∃ y ∈ s.memory.arrivals, y.rcd = a ∧ y.who.same who = true) → ∃ u : State,
     { u with memory := { u.memory with arrivals := s.memory.arrivals } } = s ∧
     u.memory.arrivals = s.memory.arrivals.filter (fun y => !(y.rcd == a && y.who.same who)) ∧
     s.serve who (some p) 4 addr n bs = u.answerTo who 36 (bytesOfNat 8 8589934592)) ∧
   (∀ w, num 0 8 % 256 = 2 → s.plain → s.waitStatus a v = some w → s.serve who (some p) 4 addr n bs = s.answerTo who 36 (bytesOfNat 8 w.toNat))) ∧
  (let a := num 0 8 + 512 + 64 * (num 8 8 % 512) + 32
   (∀ g : Seg, a + 32 ≤ 2 ^ 64 → s.resolveAs .tile p .both [(a, 32)] = .ok [[g]] → g.2 = 32 → s.ordinary g → s.plain → s.memory.shadows = [] →
     s.flashHeld [g] = false → ∃ (u : State) (old : Nat), s.serve who (some p) 7 addr n bs = u.answerTo who 34 [] ∧
       old < 2 ^ 32 ∧ (∀ i, i < 32 → old.testBit i = s.bitAt (g.1 + i)) ∧
       ∀ b, u.bitAt b = if g.1 ≤ b ∧ b < g.1 + 32 then ((old + num 16 8) % 2 ^ 32).testBit (b - g.1) else s.bitAt b) ∧
   (∀ f, a + 32 ≤ 2 ^ 64 → s.resolveAs .tile p .both [(a, 32)] = .error (.trap f) →
     s.serve who (some p) 7 addr n bs = (s.deviceRecord false p 9 (num 0 8)).answerTo who 34 []) ∧
   ∀ u i, s.serveDelta p (num 0 8) (num 8 8) (num 16 8) = .error (.wait u) → who.again = some i → s.serve who (some p) 7 addr n bs = s.push i)

/-- R130, R134, R330, R333, R344, R351, R441 to R446: A flit that keeps its header is served, or reaches the request or the completion that awaits it; any other is dropped with a record to root firmware, and changes nothing else. What it brings of a reduction, a partial, a piece of the result or its end, is held for the communication step. A piece of a Churn block goes into its free slot, or is held back until it can; the flit that opens a ring is checked, and one that breaks it breaks the members here whose ring began at the cycle that it tells (log 15, DESIGN CHOICE). An ERR of code 3 gives up the reduction of the window that it names; where no launch here has named it, one of the partition's running launches ends with status 2, and which is free (log 2, DESIGN CHOICE). A lost port leaves BPEN, and only requests sent on it may end, and only rings that sent on it break. The offsets 65472 and 65504, TAG 4095 for a null, the place of a window's first element in NSEC, the answer 2^32 and the sector that an element of -0 leaves alone are log 14 (DESIGN CHOICE), and how pieces of a reduction are kept, also those of a window that no launch here has named, is log 22 (DEDUCED). -/
def Obligations.BerastFlits : Prop := ∀ (s : State) (x : Flit),
  let n := x.nsec.toNat + 1
  let dropped (i : Instr) : Prop := exec i s = exec (.berastFlitDrop x) s
  let requests := [(Instr.berastRd x, 1, 7), (.berastWr x, 2, 3), (.berastAtom x, 3, 1), (.berastBar x, 4, 8), (.berastPlcd x, 7, 8)]
  let answers := [(Instr.berastRdr x, 33), (.berastAck x, 34), (.berastAtr x, 35), (.berastBrs x, 36)]
  let others := [(Instr.berastRedp x, 5), (.berastRedm x, 37), (.berastChnb x, 6), (.berastErr x, 62)]
  let asked (a : Ask) : Prop := (s.edge.asks.find? fun y => y.flit.tag == x.tag && y.flit.dst == x.src && y.answer.isNone) = some a
  let nobody := ∀ a ∈ s.edge.asks, a.flit.tag = x.tag → a.flit.dst = x.src → a.answer ≠ none
  let completes (a : Remote) : Prop := (s.edge.remotes.find? fun y => y.flit.tag == x.tag && y.flit.dst == x.src) = some a
  let reaches (i : Instr) (kind : Nat) : Prop := s.flitTaken x kind = true →
    (∀ a, asked a → gives i s fun t => { t with edge := { t.edge with asks := s.edge.asks } } = s ∧
      t.edge.asks = s.edge.asks.map fun b => if b = a then { b with answer := some (kind, x.payload) } else b) ∧
    (∀ a, nobody → completes a → ∃ u : State, { u with edge := { u.edge with remotes := s.edge.remotes } } = s ∧
      u.edge.remotes = s.edge.remotes.erase a ∧
      exec i s = .next (if kind ≠ 62 ∧ natOfBytes (x.payload.take 8) ≠ 4294967296 then u
        else u.partRecord a.part 3 a.ref.toNat a.phase.toNat a.status)) ∧
    (nobody → (∀ a ∈ s.edge.remotes, ¬(a.flit.tag = x.tag ∧ a.flit.dst = x.src)) → exec i s = .next s)
  let brought (what : Brought) (p : Nat) : Gathered := ⟨what, p, x.addr.toNat + 4 * (x.nsec.toNat % 4),
    if x.nsec.getLsbD 2 = false then .f32 else if x.tag.toNat < 2048 then .bf16 else .f16, x.tag.toNat % 2048, padTo 112 x.payload⟩
  let brings (i : Instr) (what : Brought) (p : Nat) : Prop := gives i s fun t => { t with edge := { t.edge with partials := s.edge.partials } } = s ∧
    t.edge.partials = s.edge.partials ++ [brought what p]
  (exec (.berastFlitDrop x) s = .next (s.deviceRecord true 0 5 x.kind.toNat)) ∧
  (∀ i ∈ requests, s.flitTaken x i.2.1 = false ∨ i.2.2 < n ∨ x.addr.toNat % 16 ≠ 0 → dropped i.1) ∧
  (∀ i ∈ requests, s.flitTaken x i.2.1 = true → n ≤ i.2.2 → x.addr.toNat % 16 = 0 →
    exec i.1 s = .next (s.serve (.berast x) (s.partOfKey x.key) i.2.1 x.addr.toNat n x.payload)) ∧
  (∀ kind bs, x.src.toNat / 512 = (s.rootCsr 592).toNat % 2 ^ 21 / 512 → (s.answerTo (.berast x) kind bs).edge.out =
    s.edge.out ++ [.berast (s.portFor (x.src.toNat % 512) x.addr.toNat) (reply s x kind bs)]) ∧
  (∀ kind bs, x.src.toNat / 512 ≠ (s.rootCsr 592).toNat % 2 ^ 21 / 512 → s.answerTo (.berast x) kind bs = s.dropFlit (reply s x kind bs)) ∧
  (∀ i ∈ answers, (s.flitTaken x i.2 = false → dropped i.1) ∧ reaches i.1 i.2) ∧
  (∀ i ∈ others, s.flitTaken x i.2 = false → dropped i.1) ∧
  (s.flitTaken x 62 = true → x.payload.headD 0 ≠ 3 → reaches (.berastErr x) 62) ∧
  (s.flitTaken x 62 = true → x.payload.headD 0 = 3 → (s.partOfKey x.key = none → dropped (.berastErr x)) ∧
    ∀ p, s.partOfKey x.key = some p → if s.knowsWindow p (brought .lost p) then brings (.berastErr x) .lost p
      else if s.running p = [] then dropped (.berastErr x)
      else ∃ id ∈ s.running p, exec (.berastErr x) s = .next (s.doomTask (id * 256)) ∧
        ∀ y l, s.task (id * 256) = some y → s.launch y.launch = some l → (s.doomTask (id * 256)).launch y.launch = some { l with doom := some 2 }) ∧
  (s.flitTaken x 5 = true → (s.partOfKey x.key = none ∨ x.addr.toNat % 16 ≠ 0 → dropped (.berastRedp x)) ∧
    ∀ p, s.partOfKey x.key = some p → x.addr.toNat % 16 = 0 → if x.tag = 4095 then exec (.berastRedp x) s = .next s
      else brings (.berastRedp x) .ofModule p) ∧
  (s.flitTaken x 37 = true → (s.partOfKey x.key = none ∨ x.addr.toNat % 16 ≠ 0 → dropped (.berastRedm x)) ∧
    ∀ p, s.partOfKey x.key = some p → x.addr.toNat % 16 = 0 → let y := brought .merged p
      if x.tag = 4095 then if s.knowsWindow p y then brings (.berastRedm x) .nothing p else exec (.berastRedm x) s = .next s
      else ((∃ e ∈ y.terms, s.ownsDram p e.1 = false) → dropped (.berastRedm x)) ∧
        ((∀ e ∈ y.terms, s.ownsDram p e.1 = true) → s.knowsWindow p y = true ∨ s.inStep p = true → brings (.berastRedm x) .merged p) ∧
        ∀ a v, y.terms = [(a, v)] → s.ownsDram p a = true → s.knowsWindow p y = false → s.inStep p = false → s.plain →
          s.memory.shadows = [] → s.ordinary (8 * a, y.ty.width) → gives (.berastRedm x) s fun t =>
            t.numAt a (y.ty.width / 8) = addIn y.ty (s.numAt a (y.ty.width / 8)) v % 2 ^ y.ty.width ∧
            ∀ b, b < a ∨ a + y.ty.width / 8 ≤ b → t.byteAt b = s.byteAt b) ∧
  (s.flitTaken x 6 = true → (s.partOfKey x.key = none → dropped (.berastChnb x)) ∧ ∀ p, s.partOfKey x.key = some p →
    let o := x.addr.toNat % 65536
    let held := gives (.berastChnb x) s fun t => t.edge.churn = s.edge.churn ++ [(p, x)] ∧ { t with edge := { t.edge with churn := s.edge.churn } } = s
    let concerns (t : TaskId) (r : Ring) : Prop := s.ringOf t = some r ∧ r.rid = field x.addr.toNat 24 16 ∧ s.taskPart t = p ∧
      ∃ m ∈ r.members, m.1 = x.src.toNat % 512
    let t0 := natOfBytes (x.payload.take 8)
    (o = 65472 → (s.sched.tasks.map (fun y => y.1)).Nodup →
      ((∃ t r, concerns t r ∧ t0 < r.t0.toNat) → exec (.berastChnb x) s = .next s) ∧
      ((∀ t r, concerns t r → r.t0.toNat ≤ t0) → gives (.berastChnb x) s fun u => u.cores = s.cores ∧ u.memory = s.memory ∧
        (∀ t r, concerns t r → r.broken = false → r.t0.toNat = t0 → u.ringOf t = some { r with broken := true }) ∧
        (∀ t r, concerns t r → r.t0.toNat < t0 → u.ringOf t = some r) ∧
        ∃ z ∈ u.edge.churn, z.1 = p ∧ z.2.addr = x.addr ∧ z.2.payload.take 8 = x.payload.take 8)) ∧
    (o ≠ 65472 → s.chnTarget p x = none → held) ∧
    ∀ t r, o ≠ 65472 → s.chnTarget p x = some (t, r) → s.ringOf t = some r →
      (r.broken = true → exec (.berastChnb x) s = .next s) ∧
      (r.broken = false → o = 65504 → r.checked = true → held) ∧
      (r.broken = false → o = 65504 → r.checked = false → gives (.berastChnb x) s fun u =>
        u.ringOf t = some (if natOfBytes (x.payload.take 8) = r.n + 65536 * r.slots + 4294967296 * r.bytes then { r with checked := true }
          else { r with broken := true })) ∧
      (r.broken = false → o ≠ 65504 → r.checked = false ∨ r.arrived x.tag.toNat = true ∨ r.room x.tag.toNat = false ∨ r.n < x.tag.toNat + 2 → held) ∧
      ∀ y, r.broken = false → o ≠ 65504 → r.checked = true → r.arrived x.tag.toNat = false → r.room x.tag.toNat = true →
        x.tag.toNat + 2 ≤ r.n → s.task t = some y → s.savedAt t = none →
        let k := min 112 (r.bytes - o)
        let at_ := r.slotBit x.tag.toNat / 8 + o
        k ≤ x.payload.length → gives (.berastChnb x) s fun u =>
          u.ringOf t = some { r with got := r.got.put 0 x.tag.toNat (r.got.get 0 x.tag.toNat + k) } ∧
          ((∀ j, j ≠ y.core → u.core j = s.core j) ∧ u.memory = s.memory) ∧
          (r.slotBit x.tag.toNat % 8 = 0 → ∀ b, (u.core y.core).pad.get 0 b =
            if at_ ≤ b ∧ b < at_ + k then x.payload.getD (b - at_) 0 else (s.core y.core).pad.get 0 b)) ∧
  ∀ k : Fin 36, gives (.portDown k) s fun t => t.rootCsr 594 = s.rootCsr 594 &&& ~~~(1#64 <<< k.val) ∧
    t.edge.asks.length = s.edge.asks.length ∧ (∀ a ∈ s.edge.asks, a.answer ≠ none ∨ a.port ≠ some k.val → a ∈ t.edge.asks) ∧
    (∀ a ∈ t.edge.asks, a ∈ s.edge.asks ∨ a.answer = some (62, [6])) ∧
    ((∀ y ∈ s.sched.tasks, ∀ r, y.2.ring = some r → k.val ∉ r.ports) → t.sched = s.sched)

/-- R379, R401, R447, R449: A malformed message is answered with ERR code 6 and has no other effect; sectors of a stack are read and written with their check bytes, those of an absent, disabled or lost stack with an error. Data of a line that L2 does not hold bring it there when they are what the stack holds, and else change nothing. That bit 0 of the field counts the sectors, and the places of data and check bytes, are log 14 (DESIGN CHOICE). -/
def Obligations.OszinSectorMessages : Prop := ∀ (s : State) (k : Fin 12) (x : OFlit),
  let fails (i : Instr) (c : Nat) : Prop := gives i s fun t => oanswered k x 63 [] [BitVec.ofNat 8 c] s t ∧ onlySent s t
  let messages := [(Instr.oszinRd k x, 1), (.oszinWr k x, 2), (.gopen k x, 8), (.grow k x, 9), (.gcmt k x, 10), (.gabt k x, 11), (.slot k x, 16),
    (.idrd k x, 17), (.reprd k x, 18), (.clrs k x, 21), (.esans k x, 24), (.oszinRdr k x, 33), (.oszinAck k x, 34), (.gdone k x, 40),
    (.blk k x, 49), (.esreqRd k x, 57), (.esreqWr k x, 58), (.esreqAtom k x, 59), (.esreqBar k x, 60), (.esreqRedp k x, 61), (.oszinErr k x, 63)]
  let as := oszinSectors k.val x
  (fails (.oszinMalformedFlit k x) 6) ∧ (∀ i ∈ messages, oflitOk x i.2 = false → fails i.1 6) ∧
  (oflitOk x 1 = true → (∀ c, s.sectorsRefused k.val as = some c → fails (.oszinRd k x) c) ∧
    (s.sectorsRefused k.val as = none → s.plain → gives (.oszinRd k x) s fun t => onlySent s t ∧
      oanswered k x 33 (as.flatMap fun a => s.bytesAt a 16 ++ (codeCheck (a / 16) (s.bytesAt a 16)).map fun c => BitVec.ofNat 8 c) [] s t)) ∧
  (oflitOk x 2 = true → (∀ c, s.sectorsRefused k.val as = some c → fails (.oszinWr k x) c) ∧
    (s.sectorsRefused k.val as = none → s.plain → x.slots.length = 40 → gives (.oszinWr k x) s fun t => oanswered k x 34 [] [] s t ∧ t.cores = s.cores ∧
      (∀ j i, j < as.length → i < 16 → t.memory.bytes.get 0 (as.getD j 0 + i) = x.slots.getD (20 * j + i) 0) ∧
      (∀ b, (∀ a ∈ as, b < a ∨ a + 16 ≤ b) → t.byteAt b = s.byteAt b) ∧
      ∀ j, j < as.length → ((List.range 4).map fun i => x.slots.getD (20 * j + 16 + i) 0) =
        (codeCheck (as.getD j 0 / 16) ((List.range 16).map fun i => x.slots.getD (20 * j + i) 0)).map (fun c => BitVec.ofNat 8 c) →
        ∀ i, i < 16 → t.byteAt (as.getD j 0 + i) = x.slots.getD (20 * j + i) 0)) ∧
  (oflitOk x 33 = true → (∀ a ∈ as, a + 16 ≤ s.dramBytes) → s.plain →
    let data (j : Nat) : List Byte := padTo 16 (x.slots.drop (20 * j))
    let check (j : Nat) : List Byte := padTo 4 (x.slots.drop (20 * j + 16))
    (gives (.oszinRdr k x) s fun t => t.cores = s.cores ∧ t.edge = s.edge ∧ (∀ l ∈ s.memory.lines, l ∈ t.memory.lines) ∧
      (∀ j, j < as.length → s.holds (as.getD j 0) (data j) (check j) = true → as.getD j 0 / 128 ∈ t.memory.lines) ∧
      ((∀ j, j < as.length → checkSector (as.getD j 0 / 16) (data j) ((check j).map BitVec.toNat) ≠ .bad) → s.sameBytes t) ∧
      ∀ b, (∀ a ∈ as, b < a ∨ a + 16 ≤ b) → t.byteAt b = s.byteAt b) ∧
    ∀ a, as = [a] → a / 128 ∉ s.memory.lines → s.holds a (data 0) (check 0) = false → exec (.oszinRdr k x) s = .next s) ∧
  (oflitOk x 34 = true → gives (.oszinAck k x) s fun t => { t with memory := { t.memory with dirty := s.memory.dirty } } = s ∧
    ∀ d, d ∈ t.memory.dirty ↔ d ∈ s.memory.dirty ∧ ∀ a ∈ as, d ≠ a / 16)

/-- R167 to R170, R374, R375, R377, R403, R404, R447 to R449: Command groups over a link open, grow, commit and abort, or are refused with their code; the halves of a slot table of a link take effect together, and a half whose partner does not follow is gone; the identity and repair blocks are read, the reserved bytes of an identity as 0, and an identity that differs disables its pair of stacks; messages to a lost stack end with code 5. The layout of GROW, the half, kind and sequence bytes of SLOT, and the fields of BLK, IDRD and REPRD are log 14 (DESIGN CHOICE). -/
def Obligations.OszinGroupsTablesAndBlocks : Prop := ∀ (s : State) (k : Fin 12) (x : OFlit),
  let fails (i : Instr) (c : Nat) : Prop := gives i s fun t => oanswered k x 63 [] [BitVec.ofNat 8 c] s t ∧ onlySent s t
  let tag := x.tag.toNat
  let group (t : State) : Option Group := t.linkGroup k.val tag
  let others (t : State) : Prop := ∀ j u, j ≠ k.val ∨ u ≠ tag → t.linkGroup j u = s.linkGroup j u
  let quiet (t : State) : Prop := t.memory = s.memory ∧ t.cores = s.cores ∧ t.sched = s.sched
  let off := k.val ∈ s.edge.stacksOff
  let lost := k.val ∈ s.edge.stacksLost
  (oflitOk x 8 = true → (off → fails (.gopen k x) 2) ∧ (¬off → lost → fails (.gopen k x) 5) ∧
    (¬off → ¬lost → (group s).isSome = true → fails (.gopen k x) 6) ∧
    (¬off → ¬lost → group s = none → gives (.gopen k x) s fun t => oanswered k x 34 [] [] s t ∧ group t = some ⟨k.val, [], false, none, []⟩ ∧ others t ∧ quiet t)) ∧
  (lost → (oflitOk x 9 = true → fails (.grow k x) 5) ∧ (oflitOk x 10 = true → fails (.gcmt k x) 5) ∧ (oflitOk x 11 = true → fails (.gabt k x) 5)) ∧
  (¬lost → oflitOk x 9 = true → (group s = none → fails (.grow k x) 6) ∧ ∀ g, group s = some g → let ops := growOps k.val x
    let resets := ∃ c ∈ s.edge.inReset, codedUnit c = true ∧ ({ g with ops := ops } : Group).usesSlice (c - 256) = true
    (g.aborted = true → fails (.grow k x) 3) ∧
    (g.aborted = false → resets → gives (.grow k x) s fun t => oanswered k x 63 [] [3] s t ∧ group t = some { g with aborted := true } ∧ others t ∧ quiet t) ∧
    (g.aborted = false → ¬resets → 64 < g.ops.length + ops.length → fails (.grow k x) 6) ∧
    let absent (o : RowOp) : Prop := s.bankRows ≤ rowNum o.dst ∨ ∃ c, o.src = some c ∧ s.bankRows ≤ rowNum c
    (g.aborted = false → ¬resets → g.ops.length + ops.length ≤ 64 → (∃ o ∈ ops, absent o) → fails (.grow k x) 1) ∧
    (g.aborted = false → ¬resets → g.ops.length + ops.length ≤ 64 → (∀ o ∈ ops, ¬absent o) →
      gives (.grow k x) s fun t => oanswered k x 34 [] [] s t ∧ group t = some { g with ops := g.ops ++ ops } ∧ others t ∧ quiet t)) ∧
  (¬lost → oflitOk x 10 = true → (group s = none → fails (.gcmt k x) 6) ∧ ∀ g, group s = some g →
    (g.aborted = true → gives (.gcmt k x) s fun t => oanswered k x 63 [] [3] s t ∧ group t = none ∧ others t ∧ quiet t) ∧
    (g.aborted = false → s.groupRoom g.ops = false → fails (.gcmt k x) 6) ∧
    (g.aborted = false → s.groupRoom g.ops = true → s.groupBad g.ops = true →
      gives (.gcmt k x) s fun t => oanswered k x 63 [] [5] s t ∧ group t = none ∧ others t ∧ quiet t) ∧
    (g.aborted = false → s.groupRoom g.ops = true → s.groupBad g.ops = false →
      ∃ mask, exec (.gcmt k x) s = .next (((s.setLinkGroup k.val tag none).commit g.ops).oszinOut k.val x 40 [] (bytesOfNat 8 mask)) ∧
        ∀ j, j < g.ops.length → mask.testBit j = (match g.ops[j]? with | some o => s.buffered o | none => false))) ∧
  (¬lost → oflitOk x 11 = true → gives (.gabt k x) s fun t => oanswered k x 34 [] [] s t ∧ group t = none ∧ others t ∧ quiet t) ∧
  (oflitOk x 40 = true → gives (.gdone k x) s fun t => group t = none ∧ others t ∧ quiet t ∧ t.edge.out = s.edge.out) ∧
  (lost → (oflitOk x 16 = true → fails (.slot k x) 5) ∧ (oflitOk x 17 = true → fails (.idrd k x) 5) ∧
    (oflitOk x 18 = true → fails (.reprd k x) 5)) ∧
  (¬lost → oflitOk x 16 = true →
    let bs := padTo 16 x.slots ++ padTo 16 (x.slots.drop 20)
    let half := (x.field.headD 0).toNat % 2
    let channel := (x.field.headD 0).getLsbD 1
    let base := if channel then 4096 + 64 * (64 * k.val + x.ch.toNat) else 64 * k.val
    let key := base * 2 ^ 32 + natOfBytes ((x.field.drop 1).take 4)
    let rest := s.edge.slotHalf.filter fun y => y.1 != k.val
    let mine := s.edge.slotHalf.find? fun y => y.1 == k.val
    (slotsOk channel bs = false → gives (.slot k x) s fun t => oanswered k x 63 [] [4] s t ∧ quiet t ∧ t.edge.slotHalf = rest ∧
      t.edge.slotTab = s.edge.slotTab) ∧
    (slotsOk channel bs = true → (∀ h cs, mine = some (k.val, key, h, cs) → h = half) → gives (.slot k x) s fun t => oanswered k x 34 [] [] s t ∧
      quiet t ∧ t.edge.slotHalf = rest ++ [(k.val, key, half, bs)] ∧ t.edge.slotTab = s.edge.slotTab) ∧
    (∀ h cs, slotsOk channel bs = true → mine = some (k.val, key, h, cs) → h ≠ half → cs.length = 32 →
      gives (.slot k x) s fun t => oanswered k x 34 [] [] s t ∧ quiet t ∧ t.edge.slotHalf = rest ∧
        ∀ o, t.edge.slotTab.get 128 o = if base ≤ o ∧ o < base + 64 then
          (if (o - base) / 32 = half then bs else cs).getD ((o - base) % 32) 0 else s.edge.slotTab.get 128 o)) ∧
  (¬lost → oflitOk x 17 = true → gives (.idrd k x) s fun t => onlySent s t ∧ oanswered k x 49 (padTo 32 ((s.identBlock k.val).drop (32 * x.sn.toNat))) [0] s t) ∧
  (¬lost → oflitOk x 18 = true → gives (.reprd k x) s fun t => onlySent s t ∧ oanswered k x 49 (padTo 32 ((s.repairBlock k.val).drop (32 * x.sn.toNat))) [1] s t) ∧
  (oflitOk x 49 = true → x.field.headD 0 = 0 → x.sn.toNat < 2 → gives (.blk k x) s fun t => quiet t ∧
    (∀ o, t.edge.ident.get 0 o = if 64 * k.val + 32 * x.sn.toNat ≤ o ∧ o < 64 * k.val + 32 * x.sn.toNat + 32 then
      (if 64 * k.val + 40 ≤ o then 0 else x.slots.getD (o - (64 * k.val + 32 * x.sn.toNat)) 0) else s.edge.ident.get 0 o) ∧
    (identOk s.height (t.identBlock k.val) = false → k.val ∈ t.edge.stacksOff ∧ t.edge.pfStatus.getLsbD (32 + k.val / 2) = true) ∧
    (identOk s.height (t.identBlock k.val) = true → t.edge.stacksOff = s.edge.stacksOff ∧ t.edge.pfStatus = s.edge.pfStatus)) ∧
  (oflitOk x 49 = true → x.field.headD 0 ≠ 0 ∨ 2 ≤ x.sn.toNat → exec (.blk k x) s = .next s)

/-- R379, R383, R446, R447, R449: Resets of stack engines, clearing of a partition's rows, requests and queued work of stack engines and their answers once the work has retired, errors, and a lost link. A request of an engine in a reset is answered with code 3, a malformed one with code 6. An error aborts the group of its tag, stops the engine whose request bears it, or concerns at most one group on the stack or one access under way; codes 3 and 5 end a group or an access where a group of a task is open there. The layouts of ESREQ, the answers of ESCMD, and which request an error without a known tag concerns are log 14 (DESIGN CHOICE), and the numbers 8 and 10 of device records are log 16 (DESIGN CHOICE). -/
def Obligations.OszinEngineMessages : Prop := ∀ (s : State) (k : Fin 12) (x : OFlit) (e : Fin 16) (p : PartId) (y : QueuedWork),
  let unit := 256 + 16 * k.val + e.val
  let asked (a : Ask) : Prop := (s.edge.asks.find? fun z => z.core / 16 == 16 + k.val && z.flit.tag == x.tag && z.answer.isNone) = some a
  let fails (i : Instr) (c : Nat) : Prop := gives i s fun t => oanswered k x 63 [] [BitVec.ofNat 8 c] s t ∧ onlySent s t
  let resets := 256 + 16 * k.val + x.ch.toNat / 4 ∈ s.edge.inReset
  let cleared (t : State) : Prop := unit ∈ t.edge.inReset ∧ (unit ∉ s.edge.inReset → (t.core unit).pad = [] ∧ (t.core unit).scal = [] ∧
    ((s.core unit).owner.isSome = true → (s.core unit).mode = .tile → (s.core unit).stopped = none → (t.core unit).stopped = some 30))
  (gives (.rste k e) s fun t => cleared t ∧ some (.wdog k e) ∈ t.agenda.map (fun z => z.1) ∧ some (.rstd k e) ∈ t.agenda.map (fun z => z.1)) ∧
  (gives (.wdog k e) s cleared) ∧
  (gives (.rstd k e) s fun t => { t with edge := { t.edge with inReset := s.edge.inReset } } = s ∧
    ∀ j, j ∈ t.edge.inReset ↔ j ∈ s.edge.inReset ∧ j ≠ unit) ∧
  (k.val ∈ s.edge.stacksLost → oflitOk x 21 = true → fails (.clrs k x) 5) ∧
  (k.val ∉ s.edge.stacksLost → oflitOk x 21 = true → gives (.clrs k x) s fun t => oanswered k x 34 [] [] s t ∧ t.cores = s.cores ∧ t.memory.bytes = s.memory.bytes ∧
    ∀ r, inIntervals t.memory.clrRows r = (inIntervals s.memory.clrRows r ||
      ((slicesOf (s.part x.part.toNat).slc).any fun i => i / 16 == k.val && inIntervals (s.sliceRows i) r))) ∧
  (exec (.clrd k p) s = .next (s.deviceRecord true p.val 8 k.val)) ∧
  (oflitOk x 24 = true → (∀ a, asked a → gives (.esans k x) s fun t => { t with edge := { t.edge with asks := s.edge.asks } } = s ∧
      t.edge.asks = s.edge.asks.map fun b => if b = a then { b with answer := some ((x.field.headD 0).toNat, padTo 40 x.slots ++ x.field.drop 1) } else b) ∧
    ((∀ a, ¬asked a) → exec (.esans k x) s = .next s)) ∧
  (∀ cls, s.queueWork (256 + 16 * k.val + y.engine % 16) y = .inl cls → gives (.escmd k y) s fun t => onlySent s t ∧
    t.edge.out = s.edge.out ++ [.oszin k.val ⟨24, 0, y.tag, 0, 0, 0, padTo 40 (List.replicate 8 0 ++ [BitVec.ofNat 8 cls]), padTo 16 [62]⟩]) ∧
  (∀ v u, s.queueWork (256 + 16 * k.val + y.engine % 16) y = .inr (some v, u) → gives (.escmd k y) s fun t => onlySent u t ∧
    t.edge.out = u.edge.out ++ [.oszin k.val ⟨24, 0, y.tag, 0, 0, 0, padTo 40 (bytesOfNat 8 v.toNat), padTo 16 [35]⟩]) ∧
  (∀ u, s.queueWork (256 + 16 * k.val + y.engine % 16) y = .inr (none, u) → exec (.escmd k y) s = .next (u.push (.escmd k y))) ∧
  (∀ i ∈ [(Instr.esreqRd k x, 1, 3), (.esreqWr k x, 2, 1), (.esreqAtom k x, 3, 1), (.esreqBar k x, 4, 8), (.esreqRedp k x, 5, 2)], oflitOk x (56 + i.2.1) = true →
    (resets → fails i.1 3) ∧ (¬resets → i.2.2 < esCount x ∨ esAddr x % 16 ≠ 0 → fails i.1 6)) ∧
  (∀ i ∈ [(Instr.esreqRd k x, 1, 3), (.esreqWr k x, 2, 1), (.esreqAtom k x, 3, 1), (.esreqBar k x, 4, 8)], oflitOk x (56 + i.2.1) = true → ¬resets →
    esCount x ≤ i.2.2 → esAddr x % 16 = 0 → exec i.1 s = .next (s.serve (.oszin k.val x)
      (if (s.part x.part.toNat).enabled then some x.part.toNat else none) i.2.1 (esAddr x) (esCount x) (esPayload x))) ∧
  (oflitOk x 61 = true → ¬resets → esCount x ≤ 2 → esAddr x % 16 = 0 →
    (s.ownsSectors x.part.toNat (esAddr x) (esCount x) = false → exec (.esreqRedp k x) s = .next (s.answerTo (.oszin k.val x) 62 [1])) ∧
    (s.ownsSectors x.part.toNat (esAddr x) (esCount x) = true → gives (.esreqRedp k x) s fun t =>
      { t with edge := { t.edge with partials := s.edge.partials } } = s ∧
      t.edge.partials = s.edge.partials ++ [⟨.ofEngine, x.part.toNat, esAddr x, .f32, 0, padTo (16 * esCount x) x.slots⟩])) ∧
  (oflitOk x 63 = true → let code := (x.field.headD 0).toNat
    let cls := match code with | 1 => 17 | 2 => 17 | 3 => 30 | _ => 42
    (∀ g, s.linkGroup k.val x.tag.toNat = some g → gives (.oszinErr k x) s fun t =>
      t.linkGroup k.val x.tag.toNat = some { g with aborted := true } ∧ t.sched = s.sched) ∧
    (∀ a, s.linkGroup k.val x.tag.toNat = none → asked a → (s.core a.core).mode = .tile → (s.core a.core).stopped = none → a.core < 768 →
      gives (.oszinErr k x) s fun t => (t.core a.core).stopped = some cls) ∧
    (s.linkGroup k.val x.tag.toNat = none → (∀ a, ¬asked a) → code = 4 → exec (.oszinErr k x) s = .next (s.deviceRecord true 0 10 4)) ∧
    (s.linkGroup k.val x.tag.toNat = none → (∀ a, ¬asked a) → code ≠ 4 → code ≠ 6 → gives (.oszinErr k x) s fun t =>
      t.memory = s.memory ∧ t.cores = s.cores ∧ t.edge.out = s.edge.out ∧ (∀ y ∈ s.edge.late, y ∈ t.edge.late) ∧
      (∀ y ∈ t.edge.late, y ∈ s.edge.late ∨ (y.stack = some k.val ∧ y.cls = cls ∧ s.atInstruction y.core y.eng = true ∧
        y.pc = (s.core y.core).pc.get y.eng)) ∧
      ∀ u z, s.task u = some z → t.task u = some z ∨ ∃ g, z.group = some g ∧ g.stack = k.val ∧
        t.task u = some { z with group := some { g with aborted := true } }) ∧
    (s.linkGroup k.val x.tag.toNat = none → (∀ a, ¬asked a) → code = 3 ∨ code = 5 → (s.sched.tasks.map (fun z => z.1)).Nodup →
      (∃ z ∈ s.sched.tasks, ∃ g, z.2.group = some g ∧ g.stack = k.val) → gives (.oszinErr k x) s fun t =>
        (t.edge.late = s.edge.late ∧
          ∃ u z g, s.task u = some z ∧ z.group = some g ∧ g.stack = k.val ∧ t.task u = some { z with group := some { g with aborted := true } }) ∨
        (t.sched = s.sched ∧ ∃ y, t.edge.late = s.edge.late ++ [y] ∧ y.stack = some k.val ∧ y.cls = cls ∧ s.atInstruction y.core y.eng = true))) ∧
  gives (.oszinLinkLost k) s fun t => k.val ∈ t.edge.stacksLost ∧ (∀ g ∈ t.edge.groups, g.1 = k.val → g.2.2.aborted = true) ∧
    (∀ z ∈ t.sched.tasks, ∀ g, z.2.group = some g → g.stack = k.val → g.aborted = true) ∧
    ((s.core unit).owner.isSome = true → (s.core unit).mode = .tile → (s.core unit).stopped = none → (t.core unit).stopped = some 30)

/-- R380, R385 to R387, R423, R438, R447, R450 to R454: The flash tier, the control registers of the dies and the boot area are read and written over the links, whole accesses refused where they leave their region or meet a lost die, and a write that a die does not accept yet is sent again; requests, queued work, clearing and resets of flash engines, and a lost die. A root image that stands in the boot area and is accepted comes to stand at byte 0 of memory, is measured, and the root core is about to run it, unless a later step of the boot fails; a refused one stops the boot after step 1. Memory but flash is 0 then, and every partition disabled. Power loss and a thermal trip stop the module; a throttle changes no value. A report holds the measurements and is signed; scheduler firmware has one for its own partition only. The image at byte 0 and what stops the boot are log 4 (DESIGN CHOICE), the bytes that are signed log 9 (DEDUCED), the kinds of queued work log 14 (DESIGN CHOICE), and the boot and a reset as one step each log 21 (DESIGN CHOICE). -/
def Obligations.FlashAndPower : Prop :=
  (∀ (s : State) (r : DieRegion) (ofs len : Nat) (bytes : List Byte) (die : Fin 4) (x : FlashMsg) (y : QueuedWork) (e : Fin 16) (tag : BitVec 12)
    (v : Word) (cls : BitVec 8),
  let f := x.flit
  let n := f.nsec.toNat + 1
  let own := (s.rootCsr 592).toNat % 2 ^ 21
  let size : Nat := match r with | .tier => 2 ^ 44 | .control _ => 65536 | .boot => 2 ^ 26
  let dies (n : Nat) : List Nat := match r with | .tier => diesOf ofs n | .control d => [d.val] | .boot => [0]
  let refused (n : Nat) : Prop := size < ofs + n ∨ ∃ d ∈ dies n, d ∈ s.edge.diesLost
  let held (n : Nat) : Prop := ∃ d ∈ dies n, s.capOk d = false
  let sends (i : Instr) (o : Out) : Prop := gives i s fun t => onlySent s t ∧ t.edge.out = s.edge.out ++ [o]
  let asked (k : CoreId) (g : BitVec 12) (a : Ask) : Prop := (s.edge.asks.find? fun z => z.core == k && z.flit.tag == g && z.answer.isNone) = some a
  let answers (i : Instr) (a : Ask) (r : Nat × List Byte) : Prop := gives i s fun t => { t with edge := { t.edge with asks := s.edge.asks } } = s ∧
    t.edge.asks = s.edge.asks.map fun b => if b = a then { b with answer := some r } else b
  (refused len → sends (.flashMemoryRead ⟨r, ofs⟩ len) .flashError) ∧
  (¬refused len → (r = .tier → s.badSector (flashBase + ofs) len = true → sends (.flashMemoryRead ⟨r, ofs⟩ len) .flashError) ∧
    (r = .tier → s.badSector (flashBase + ofs) len = false →
      sends (.flashMemoryRead ⟨r, ofs⟩ len) (.flashData ((List.range len).map fun i => s.byteAt (flashBase + ofs + i)))) ∧
    (r = .control die → sends (.flashMemoryRead ⟨r, ofs⟩ len) (.flashData ((List.range len).map fun i => s.dieByte die.val (ofs + i)))) ∧
    (r = .boot → sends (.flashMemoryRead ⟨r, ofs⟩ len) (.flashData (s.edge.boot.slice 0 ofs len)))) ∧
  (refused bytes.length → sends (.flashDeferrableWrite ⟨r, ofs⟩ bytes) .flashError) ∧
  (¬refused bytes.length → (∀ d, r ≠ .control d) → held bytes.length → exec (.flashDeferrableWrite ⟨r, ofs⟩ bytes) s =
    .next ((s.emit .flashRetry).push (.flashRequestRetry ⟨⟨r, ofs⟩, bytes⟩))) ∧
  (¬refused bytes.length → r = .tier → ¬held bytes.length → s.plain → s.portOver (flashBase + ofs) bytes.length = false → gives (.flashDeferrableWrite ⟨r, ofs⟩ bytes) s fun t =>
    t.edge.out = s.edge.out ++ [.flashDone] ∧ t.cores = s.cores ∧
    ∀ b, t.byteAt b = if flashBase + ofs ≤ b ∧ b < flashBase + ofs + bytes.length then bytes.getD (b - (flashBase + ofs)) 0 else s.byteAt b) ∧
  (¬refused bytes.length → r = .boot → ¬held bytes.length → gives (.flashDeferrableWrite ⟨r, ofs⟩ bytes) s fun t =>
    t.edge.out = s.edge.out ++ [.flashDone] ∧ { t with edge := s.edge } = s ∧
    ∀ b, t.edge.boot.get 0 b = if ofs ≤ b ∧ b < ofs + bytes.length then bytes.getD (b - ofs) 0 else s.edge.boot.get 0 b) ∧
  (¬refused bytes.length → r = .control die →
    (ofs = 32 → bytes.length = 8 → exec (.flashDeferrableWrite ⟨r, ofs⟩ bytes) s =
      .next ((s.clearBlocks die.val (BitVec.ofNat 64 (natOfBytes bytes))).emit .flashDone)) ∧
    (ofs = 48 → bytes.length = 8 → exec (.flashDeferrableWrite ⟨r, ofs⟩ bytes) s =
      .next ((s.resetFlash die.val (natOfBytes bytes % 16)).emit .flashDone)) ∧
    (ofs + bytes.length ≤ 32 ∨ 56 ≤ ofs → sends (.flashDeferrableWrite ⟨r, ofs⟩ bytes) .flashDone)) ∧
  (exec (.flashRequestRetry ⟨⟨r, ofs⟩, bytes⟩) s = exec (.flashDeferrableWrite ⟨r, ofs⟩ bytes) s) ∧
  (f.rsv ≠ 0 ∨ f.dst.toNat ≠ own ∨ f.src.toNat ≠ own ∨ f.kind.toNat ∉ [1, 2, 3, 4, 7] ∨ f.addr.toNat % 16 ≠ 0 →
    exec (.flashEngineRequest x) s = exec (.berastFlitDrop f) s) ∧
  (∀ k ∈ [(1, 7), (2, 3), (3, 1), (4, 8), (7, 8)], f.rsv = 0 → f.dst.toNat = own → f.src.toNat = own → f.kind.toNat = k.1 → f.addr.toNat % 16 = 0 →
    exec (.flashEngineRequest x) s = if k.2 < n then exec (.berastFlitDrop f) s else
      .next (s.serve (.flash x) (s.partOfFlash x.engine.val) k.1 f.addr.toNat n f.payload)) ∧
  (∀ a, asked (512 + x.engine.val) f.tag a → answers (.flashEngineAnswer x) a (f.kind.toNat, f.payload)) ∧
  ((∀ a, ¬asked (512 + x.engine.val) f.tag a) → exec (.flashEngineAnswer x) s = .next s) ∧
  (∀ c, s.queueWork (512 + y.engine % 16) y = .inl c →
    sends (.flashQueueWork y) (.flash (y.engine % 16) 65 y.tag (List.replicate 8 0 ++ [BitVec.ofNat 8 c]))) ∧
  (∀ w u, s.queueWork (512 + y.engine % 16) y = .inr (some w, u) → gives (.flashQueueWork y) s fun t => onlySent u t ∧
    t.edge.out = u.edge.out ++ [.flash (y.engine % 16) 65 y.tag (bytesOfNat 8 w.toNat ++ [0])]) ∧
  (∀ u, s.queueWork (512 + y.engine % 16) y = .inr (none, u) → exec (.flashQueueWork y) s = .next (u.push (.flashQueueWork y))) ∧
  ((∀ a, ¬asked (512 + e.val) tag a) → exec (.flashQueueWorkAnswer e tag v cls) s = .next s) ∧
  (∀ a, asked (512 + e.val) tag a → (cls = 0 → answers (.flashQueueWorkAnswer e tag v cls) a (65, bytesOfNat 8 v.toNat)) ∧
    (cls ≠ 0 → exec (.flashQueueWorkAnswer e tag v cls) s = .next (s.takeFault a.core a.eng ⟨cls.toNat, 0, 0, 0, 0⟩))) ∧
  (gives (.dieBlockClear die v) s fun t => { t with memory := { t.memory with clrBlocks := s.memory.clrBlocks } } = s ∧
    ∀ b, inIntervals t.memory.clrBlocks b = (inIntervals s.memory.clrBlocks b ||
      (b % 4 == die.val && decide (wField v 0 22 ≤ b / 4) && decide (b / 4 ≤ wField v 0 22 + wField v 40 24)))) ∧
  (∀ (m : BitVec 4) (i : Fin 4), m.getLsbD i.val = true → let k := 512 + 4 * die.val + i.val
    gives (.dieEngineReset die m) s fun t => k ∉ t.edge.inReset ∧ (k ∉ s.edge.inReset → (t.core k).pad = [] ∧ (t.core k).scal = [] ∧
      ((s.core k).owner.isSome = true → (s.core k).mode = .tile → (s.core k).stopped = none → (t.core k).stopped = some 30))) ∧
  ∀ i : Fin 4, let k := 512 + 4 * die.val + i.val
    gives (.flashLinkLost die) s fun t => die.val ∈ t.edge.diesLost ∧
      ((s.core k).owner.isSome = true → (s.core k).mode = .tile → (s.core k).stopped = none → (t.core k).stopped = some 30)) ∧
  (∀ (s : State) (image sig key nonce : List Byte) (version : Word) (p : PartId),
  (gives (.powerOn image sig key version) s fun t => t.edge.powered = true ∧ t.cores = assocPut ((s.cores.filter fun c => c.2.defective).map fun c =>
      (c.1, { Core.zero with defective := true })) rootId Core.rootReset ∧
    t.parts = [] ∧ t.sched = State.reset.sched ∧ t.movers = State.reset.movers ∧ t.dramGiB = s.dramGiB ∧
    let stands := s.edge.boot.slice 0 0 image.length = image ∧ imageAccepted image sig key version = true
    (stands → s.choose 6 4 = 0 → t.edge.rootStopped = false ∧ t.edge.version = version.toNat ∧ t.edge.meas = extendMeasure [] image 0 ∧
      ∀ b, b < flashBase → t.memory.bytes.get 0 b = if b < image.length then image.getD b 0 else 0) ∧
    (stands → s.choose 6 4 ≠ 0 → t.edge.rootStopped = true ∧ t.edge.meas = [] ∧ t.edge.pfStatus.toNat = 1 + 16 * (s.choose 6 4 + 1)) ∧
    (¬stands → t.edge.rootStopped = true ∧ t.edge.meas = [] ∧ t.edge.pfStatus.toNat % 65536 = 17)) ∧
  (gives .powerLoss s fun t => t.edge.powered = false ∧ t.memory = s.memory ∧ step { t with agenda := [] } = .fault .stopped) ∧
  (∀ on, gives (.thermalThrottle on) s fun t => t.edge.throttle = on ∧ { t with edge := { t.edge with throttle := s.edge.throttle } } = s) ∧
  (gives .thermalTrip s fun t => t.edge.powered = false ∧ t.edge.pfStatus.getLsbD 3 = true ∧ t.memory = s.memory ∧ t.edge.records = s.edge.records ∧
    ∀ id, id < 1024 → t.launch id = none) ∧
  (∀ q : PartId, q ≠ p → exec (.attestationReport ⟨some q, p⟩ nonce) s = .next s) ∧
  ∀ by_ : Option PartId, by_ = none ∨ by_ = some p → gives (.attestationReport ⟨by_, p⟩ nonce) s fun t => { t with edge := { t.edge with report := s.edge.report } } = s ∧
    ∃ body, t.edge.report = body ++ edSign s.identitySeed body ∧ body.take 40 = bytesOfNat 8 1 ++ padTo 32 nonce ∧
      (body.drop 40).take 8 = bytesOfNat 8 p.val ∧ (s.edge.meas = [] ∨ s.edge.meas.length = 64 → (body.drop 48).take 64 = measured s.edge.meas ∧
        ((s.part p.val).meas = [] ∨ (s.part p.val).meas.length = 64 → (body.drop 112).take 64 = measured (s.part p.val).meas)))
end

