-- ==== Sys2Proof/Laws/Sparse.lean ====
section
/-! SUPPORT. Laws of finite maps: what a read gives after each write, for any list of entries, and that every operation
keeps the canonical form. -/

namespace Sys2Proof

variable {α : Type}

theorem Sparse.get_append (d : α) (a b : Sparse α) (k : Nat) :
    Sparse.get d (a ++ b) k = if a.any (fun x => x.1 == k) then Sparse.get d a k else Sparse.get d b k := by
  induction a with
  | nil => simp
  | cons x a ih =>
    by_cases h : x.1 = k
    · simp [Sparse.get, h]
    · have hb : (x.1 == k) = false := by simpa using h
      simp only [List.cons_append, Sparse.get, if_neg h, ih, List.any_cons, hb, Bool.false_or]

theorem Sparse.get_of_absent (d : α) (m : Sparse α) (k : Nat) (h : ∀ x ∈ m, x.1 ≠ k) : Sparse.get d m k = d := by
  induction m with
  | nil => rfl
  | cons x m ih =>
    have hx := h x (by simp)
    simp [Sparse.get, hx, ih fun y hy => h y (by simp [hy])]

theorem Sparse.get_filter (d : α) (p : Nat → Bool) (m : Sparse α) (k : Nat) :
    Sparse.get d (m.filter fun x => p x.1) k = if p k then Sparse.get d m k else d := by
  induction m with
  | nil => simp [Sparse.get]
  | cons x m ih =>
    by_cases hx : p x.1 <;> by_cases hk : x.1 = k
    · subst hk; simp [Sparse.get, hx]
    · simp [Sparse.get, hx, hk, ih]
    · subst hk; simp [hx, ih]
    · simp [Sparse.get, hx, hk, ih]

theorem Sparse.get_overlay (d : α) (m : Sparse α) (lo n : Nat) (new : Sparse α) (k : Nat)
    (h : ∀ x ∈ new, lo ≤ x.1 ∧ x.1 < lo + n) :
    Sparse.get d (m.overlay lo n new) k = if lo ≤ k ∧ k < lo + n then Sparse.get d new k else Sparse.get d m k := by
  have hf := Sparse.get_filter d (fun j => decide (j < lo) || decide (lo + n ≤ j)) m k
  have hr : ∀ x ∈ m.filter (fun x => decide (x.1 < lo) || decide (lo + n ≤ x.1)), x.1 < lo ∨ lo + n ≤ x.1 := by
    intro x hx
    simpa using (List.mem_filter.mp hx).2
  rw [Sparse.overlay]
  generalize m.filter (fun x => decide (x.1 < lo) || decide (lo + n ≤ x.1)) = r at hf hr
  have split : Sparse.get d r k = Sparse.get d (r.takeWhile (fun x => decide (x.1 < lo)) ++ r.dropWhile fun x => decide (x.1 < lo)) k := by
    rw [List.takeWhile_append_dropWhile]
  have hd : ∀ x ∈ r.dropWhile (fun x => decide (x.1 < lo)), x.1 < lo ∨ lo + n ≤ x.1 :=
    fun x hx => hr x ((List.dropWhile_suffix _).subset hx)
  have ht : ∀ x ∈ r.takeWhile (fun x => decide (x.1 < lo)), x.1 < lo := by
    intro x hx
    simpa using List.mem_takeWhile_imp hx
  simp only [Sparse.get_append] at split ⊢
  by_cases hin : lo ≤ k ∧ k < lo + n
  · have ha : (r.takeWhile fun x => decide (x.1 < lo)).any (fun x => x.1 == k) = false := by
      rw [List.any_eq_false]
      intro x hx
      have := ht x hx
      simp; omega
    have hb : Sparse.get d (r.dropWhile fun x => decide (x.1 < lo)) k = d :=
      Sparse.get_of_absent d _ k fun x hx => by have := hd x hx; omega
    simp only [ha, hb, hin]
    by_cases hany : new.any (fun x => x.1 == k)
    · simp [hany]
    · have : Sparse.get d new k = d := Sparse.get_of_absent d _ k fun x hx => by
        rw [Bool.not_eq_true, List.any_eq_false] at hany
        simpa using hany x hx
      simp [hany, this]
  · have ha : new.any (fun x => x.1 == k) = false := by
      rw [List.any_eq_false]
      intro x hx
      have := h x hx
      simp; omega
    have hk : (decide (k < lo) || decide (lo + n ≤ k)) = true := by
      simp only [Bool.or_eq_true, decide_eq_true_eq]; omega
    rw [hk] at hf
    simp only [ha, hin, if_false, Bool.false_eq_true]
    rw [← split, hf, if_pos rfl]

theorem Sparse.entries_range [DecidableEq α] (d : α) (xs : List α) (lo : Nat) :
    ∀ x ∈ Sparse.entries d lo xs, lo ≤ x.1 ∧ x.1 < lo + xs.length := by
  induction xs generalizing lo with
  | nil => simp [Sparse.entries]
  | cons y ys ih =>
    intro x hx
    rw [Sparse.entries] at hx
    split at hx
    · have := ih _ x hx; simp only [List.length_cons]; omega
    · rcases List.mem_cons.mp hx with rfl | hx
      · simp
      · have := ih _ x hx; simp only [List.length_cons]; omega

theorem Sparse.get_entries [DecidableEq α] (d : α) (xs : List α) (lo k : Nat) (h : lo ≤ k) :
    Sparse.get d (Sparse.entries d lo xs) k = xs.getD (k - lo) d := by
  induction xs generalizing lo with
  | nil => simp [Sparse.entries, Sparse.get]
  | cons y ys ih =>
    rcases Nat.eq_or_lt_of_le h with rfl | hlt
    · by_cases hy : y = d
      · simp only [Sparse.entries, hy, if_true, Nat.sub_self, List.getD_cons_zero]
        exact Sparse.get_of_absent d _ _ fun x hx => by have := Sparse.entries_range d ys _ x hx; omega
      · simp [Sparse.entries, hy, Sparse.get]
    · have : k - lo = (k - (lo + 1)) + 1 := by omega
      by_cases hy : y = d
      · simp [Sparse.entries, hy, ih (lo + 1) hlt, this]
      · simp [Sparse.entries, hy, Sparse.get, ih (lo + 1) hlt, this, Nat.ne_of_lt hlt]

/-- A read after a write of a run of values: the value written there, and every other key as before. -/
theorem Sparse.get_splice [DecidableEq α] (d : α) (m : Sparse α) (lo : Nat) (xs : List α) (k : Nat) :
    Sparse.get d (m.splice d lo xs) k =
      if lo ≤ k ∧ k < lo + xs.length then xs.getD (k - lo) d else Sparse.get d m k := by
  rw [Sparse.splice, Sparse.get_overlay d m lo xs.length _ k (Sparse.entries_range d xs lo)]
  split
  · rename_i h; rw [Sparse.get_entries d xs lo k h.1]
  · rfl

/-- A read after a write of one value. -/
@[simp] theorem Sparse.get_put [DecidableEq α] (d : α) (m : Sparse α) (k j : Nat) (x : α) :
    Sparse.get d (m.put d k x) j = if j = k then x else Sparse.get d m j := by
  rw [Sparse.put, Sparse.get_splice]
  by_cases h : j = k
  · subst h; simp
  · rw [if_neg (by simp only [List.length_singleton]; omega), if_neg h]

theorem Sparse.sliceFrom_length (d : α) (m : Sparse α) (lo n : Nat) : (Sparse.sliceFrom d m lo n).length = n := by
  induction n generalizing m lo with
  | zero => simp [Sparse.sliceFrom]
  | succ n ih =>
    cases m with
    | nil => simp [Sparse.sliceFrom, ih]
    | cons x m => obtain ⟨j, v⟩ := x; rw [Sparse.sliceFrom]; split <;> simp [ih]

theorem Sparse.rising_ge (lo : Nat) (m : Sparse α) (h : Sparse.rising lo m) : ∀ x ∈ m, lo ≤ x.1 := by
  induction m generalizing lo with
  | nil => simp
  | cons y m ih =>
    obtain ⟨j, v⟩ := y
    simp only [Sparse.rising, Bool.and_eq_true, decide_eq_true_eq] at h
    intro x hx
    rcases List.mem_cons.mp hx with rfl | hx
    · exact h.1
    · have := ih (j + 1) h.2 x hx; omega

theorem Sparse.rising_mono {lo hi : Nat} {m : Sparse α} (h : Sparse.rising hi m) (hl : lo ≤ hi) : Sparse.rising lo m := by
  cases m with
  | nil => rfl
  | cons x m =>
    obtain ⟨j, v⟩ := x
    simp only [Sparse.rising, Bool.and_eq_true, decide_eq_true_eq] at h ⊢
    exact ⟨by omega, h.2⟩

theorem Sparse.sliceFrom_get (d : α) (m : Sparse α) (lo n i : Nat) (h : Sparse.rising lo m) (hi : i < n) :
    (Sparse.sliceFrom d m lo n)[i]? = some (Sparse.get d m (lo + i)) := by
  induction n generalizing m lo i with
  | zero => omega
  | succ n ih =>
    cases m with
    | nil =>
      cases i with
      | zero => simp [Sparse.sliceFrom, Sparse.get]
      | succ i => simpa [Sparse.sliceFrom, Sparse.get] using ih [] (lo + 1) i rfl (by omega)
    | cons x m =>
      obtain ⟨j, v⟩ := x
      have hr := h
      simp only [Sparse.rising, Bool.and_eq_true, decide_eq_true_eq] at h
      rw [Sparse.sliceFrom]
      split
      · rename_i hj
        subst hj
        cases i with
        | zero => simp [Sparse.get]
        | succ i =>
          rw [List.getElem?_cons_succ, ih m (j + 1) i h.2 (by omega)]
          simp only [Sparse.get]
          rw [if_neg (by omega), show j + (i + 1) = j + 1 + i by omega]
      · rename_i hj
        have hr' : Sparse.rising (lo + 1) ((j, v) :: m) := by
          simp only [Sparse.rising, Bool.and_eq_true, decide_eq_true_eq]
          exact ⟨by omega, h.2⟩
        cases i with
        | zero =>
          rw [List.getElem?_cons_zero, Nat.add_zero]
          congr 1
          exact (Sparse.get_of_absent d _ lo fun x hx => by have := Sparse.rising_ge _ _ hr' x hx; omega).symm
        | succ i =>
          rw [List.getElem?_cons_succ, ih _ (lo + 1) i hr' (by omega), show lo + (i + 1) = lo + 1 + i by omega]

@[simp] theorem Sparse.slice_length (d : α) (m : Sparse α) (lo n : Nat) : (Sparse.slice d m lo n).length = n := by
  rw [Sparse.slice]
  split
  · exact Sparse.sliceFrom_length _ _ _ _
  · simp

theorem Sparse.slice_getElem? (d : α) (m : Sparse α) (lo n i : Nat) (hi : i < n) :
    (Sparse.slice d m lo n)[i]? = some (Sparse.get d m (lo + i)) := by
  have hf : Sparse.get d (m.filter fun x => decide (lo ≤ x.1) && decide (x.1 < lo + n)) (lo + i) = Sparse.get d m (lo + i) := by
    rw [Sparse.get_filter d (fun j => decide (lo ≤ j) && decide (j < lo + n))]
    simp [hi]
  rw [Sparse.slice]
  split
  · rename_i h; rw [Sparse.sliceFrom_get d _ lo n i h hi, hf]
  · simp only [List.getElem?_map, List.getElem?_range hi, Option.map_some, hf]

/-- A run of values holds the reads of its keys, whatever the list of entries. -/
theorem Sparse.slice_eq_map (d : α) (m : Sparse α) (lo n : Nat) :
    Sparse.slice d m lo n = (List.range n).map fun i => Sparse.get d m (lo + i) := by
  apply List.ext_getElem?
  intro i
  by_cases hi : i < n
  · rw [Sparse.slice_getElem? d m lo n i hi]
    simp [List.getElem?_range hi]
  · rw [List.getElem?_eq_none (by simpa using hi), List.getElem?_eq_none (by simpa using hi)]

theorem Sparse.slice_getD (d : α) (m : Sparse α) (lo n i : Nat) (x : α) (hi : i < n) :
    (Sparse.slice d m lo n).getD i x = Sparse.get d m (lo + i) := by
  simp [List.getD_eq_getElem?_getD, Sparse.slice_getElem? d m lo n i hi]

/-! ### The canonical form -/

theorem Sparse.rising_iff (lo : Nat) (m : Sparse α) :
    Sparse.rising lo m ↔ (∀ x ∈ m, lo ≤ x.1) ∧ m.Pairwise fun x y => x.1 < y.1 := by
  induction m generalizing lo with
  | nil => simp [Sparse.rising]
  | cons x m ih =>
    obtain ⟨j, v⟩ := x
    simp only [Sparse.rising, Bool.and_eq_true, decide_eq_true_eq, ih, List.mem_cons, List.pairwise_cons]
    constructor
    · rintro ⟨h1, h2, h3⟩
      refine ⟨?_, fun y hy => by have := h2 y hy; omega, h3⟩
      rintro x (rfl | hx)
      · exact h1
      · have := h2 x hx; omega
    · rintro ⟨h1, h2, h3⟩
      exact ⟨h1 (j, v) (.inl rfl), fun y hy => h2 y hy, h3⟩

theorem Sparse.wf_iff [DecidableEq α] (d : α) (m : Sparse α) :
    Sparse.wf d m ↔ m.Pairwise (fun x y => x.1 < y.1) ∧ ∀ x ∈ m, x.2 ≠ d := by
  simp [Sparse.wf, Sparse.rising_iff]

theorem Sparse.wf_nil [DecidableEq α] (d : α) : Sparse.wf d ([] : Sparse α) := by simp [Sparse.wf_iff]

theorem Sparse.wf_filter [DecidableEq α] (d : α) (p : Nat × α → Bool) (m : Sparse α) (h : Sparse.wf d m) :
    Sparse.wf d (m.filter p) := by
  rw [Sparse.wf_iff] at h ⊢
  exact ⟨h.1.filter _, fun x hx => h.2 x (List.mem_filter.mp hx).1⟩

theorem Sparse.wf_entries [DecidableEq α] (d : α) (lo : Nat) (xs : List α) : Sparse.wf d (Sparse.entries d lo xs) := by
  rw [Sparse.wf_iff]
  induction xs generalizing lo with
  | nil => simp [Sparse.entries]
  | cons y ys ih =>
    rw [Sparse.entries]
    split
    · exact ih _
    · rename_i hy
      refine ⟨List.pairwise_cons.mpr ⟨fun x hx => ?_, (ih _).1⟩, fun x hx => ?_⟩
      · have := Sparse.entries_range d ys _ x hx; simp only; omega
      · rcases List.mem_cons.mp hx with rfl | hx
        · exact hy
        · exact (ih _).2 x hx

theorem Sparse.wf_overlay [DecidableEq α] (d : α) (m : Sparse α) (lo n : Nat) (new : Sparse α) (hm : Sparse.wf d m)
    (hn : Sparse.wf d new) (h : ∀ x ∈ new, lo ≤ x.1 ∧ x.1 < lo + n) : Sparse.wf d (m.overlay lo n new) := by
  have hr := Sparse.wf_filter d (fun x => decide (x.1 < lo) || decide (lo + n ≤ x.1)) m hm
  have ho : ∀ x ∈ m.filter (fun x => decide (x.1 < lo) || decide (lo + n ≤ x.1)), x.1 < lo ∨ lo + n ≤ x.1 := by
    intro x hx
    simpa using (List.mem_filter.mp hx).2
  rw [Sparse.overlay]
  generalize m.filter (fun x => decide (x.1 < lo) || decide (lo + n ≤ x.1)) = r at hr ho
  rw [Sparse.wf_iff] at hr hn ⊢
  have ht : ∀ x ∈ r.takeWhile (fun x => decide (x.1 < lo)), x.1 < lo := by
    intro x hx
    simpa using List.mem_takeWhile_imp hx
  have hsub : ∀ x ∈ r.dropWhile (fun x => decide (x.1 < lo)), x ∈ r := fun x hx => (List.dropWhile_suffix _).subset hx
  -- what is left after the keys below `lo` lies at or above `lo + n`
  have hd : ∀ x ∈ r.dropWhile (fun x => decide (x.1 < lo)), lo + n ≤ x.1 := by
    intro x hx
    have hp : (r.dropWhile fun x => decide (x.1 < lo)).Pairwise fun x y => x.1 < y.1 := hr.1.sublist (List.dropWhile_sublist _)
    cases hdw : r.dropWhile (fun x => decide (x.1 < lo)) with
    | nil => rw [hdw] at hx; simp at hx
    | cons y ys =>
      have hy : ¬y.1 < lo := by
        have := List.head_dropWhile_not (p := fun x : Nat × α => decide (x.1 < lo)) (l := r) (by rw [hdw]; simp)
        simpa [hdw] using this
      have hy' : lo + n ≤ y.1 := by
        have := ho y (hsub y (by rw [hdw]; simp)); omega
      rw [hdw] at hx hp
      rcases List.mem_cons.mp hx with rfl | hx
      · exact hy'
      · have := (List.pairwise_cons.mp hp).1 x hx; omega
  constructor
  · rw [List.pairwise_append, List.pairwise_append]
    refine ⟨hr.1.sublist (List.takeWhile_sublist _), ⟨hn.1, hr.1.sublist (List.dropWhile_sublist _), ?_⟩, ?_⟩
    · intro x hx y hy
      have := h x hx
      have := hd y hy
      omega
    · intro x hx y hy
      have hx := ht x hx
      rcases List.mem_append.mp hy with hy | hy
      · have := h y hy; omega
      · have := hd y hy; omega
  · intro x hx
    rcases List.mem_append.mp hx with hx | hx
    · exact hr.2 x ((List.takeWhile_sublist _).subset hx)
    · rcases List.mem_append.mp hx with hx | hx
      · exact hn.2 x hx
      · exact hr.2 x (hsub x hx)

/-- A write of a run of values keeps the canonical form. -/
theorem Sparse.wf_splice [DecidableEq α] (d : α) (m : Sparse α) (lo : Nat) (xs : List α) (h : Sparse.wf d m) :
    Sparse.wf d (m.splice d lo xs) :=
  Sparse.wf_overlay d m lo xs.length _ h (Sparse.wf_entries d lo xs) (Sparse.entries_range d xs lo)

theorem Sparse.wf_put [DecidableEq α] (d : α) (m : Sparse α) (k : Nat) (x : α) (h : Sparse.wf d m) : Sparse.wf d (m.put d k x) :=
  Sparse.wf_splice d m k [x] h

theorem Sparse.wf_puts [DecidableEq α] (d : α) (m : Sparse α) :
    Sparse.wf d (m.foldr (fun x (m : Sparse α) => m.put d x.1 x.2) []) := by
  induction m with
  | nil => exact Sparse.wf_nil d
  | cons x m ih => exact Sparse.wf_put d _ _ _ ih

theorem Sparse.wf_mend [DecidableEq α] (d : α) (m : Sparse α) : Sparse.wf d (m.mend d) := by
  rw [Sparse.mend]
  split
  · assumption
  · induction m with
    | nil => exact Sparse.wf_nil d
    | cons x m _ => exact Sparse.wf_put d _ _ _ (Sparse.wf_puts d m)

end Sys2Proof
end

