-- ==== Sys2Proof/Laws/Memory.lean ====
section
/-! SUPPORT. Every operation that writes the bytes of memory keeps their canonical form; all others leave the bytes. -/

namespace Sys2Proof.Machine

theorem Memory.wf_of_bytes {m n : Memory} (h : m.wf = true) (hb : n.bytes = m.bytes) : n.wf = true := by
  rw [Memory.wf, hb]; exact h

/-- A fold keeps what each of its steps keeps. -/
theorem foldl_keeps {α β : Type} (p : β → Prop) (f : β → α → β) (h : ∀ b a, p b → p (f b a)) (xs : List α) (b : β) (hb : p b) :
    p (xs.foldl f b) := by
  induction xs generalizing b with
  | nil => exact hb
  | cons x xs ih => exact ih _ (h b x hb)

theorem reset_memory_wf : State.reset.memory.wf = true := rfl

/-! ### Rows, blocks and sectors -/

theorem State.clearRow_wf {s : State} (h : s.memory.wf = true) (key : Nat) : (s.clearRow key).memory.wf = true :=
  foldl_keeps (fun b => Sparse.wf 0 b = true) _ (fun b a hb => Sparse.wf_splice 0 b a _ hb) _ _ h

theorem State.clearBlock_wf {s : State} (h : s.memory.wf = true) (b : Nat) : (s.clearBlock b).memory.wf = true := by
  simp only [State.clearBlock, State.setMemory, Memory.wf]
  exact Sparse.wf_filter 0 _ _ h

theorem State.cleared_wf {t : State} (h : t.memory.wf = true) (c : Bool) (d : Prop) [Decidable d] (row block : Nat) :
    (if c then t else if d then t.clearRow row else t.clearBlock block).memory.wf = true := by
  split
  · exact h
  · split
    · exact State.clearRow_wf h row
    · exact State.clearBlock_wf h block

theorem State.settle_wf {s : State} (h : s.memory.wf = true) (p n : Nat) : (s.settle p n).memory.wf = true := by
  rw [State.settle]
  split
  · exact h
  · rename_i hp
    clear hp
    generalize sectorsOf p n = ks
    induction ks generalizing s with
    | nil => exact h
    | cons k ks ih =>
      rw [List.foldl_cons]
      exact ih (State.cleared_wf h _ _ _ _)

theorem State.fixSector_wf {s : State} (h : s.memory.wf = true) (k : Nat) (data : List Byte) : (s.fixSector k data).memory.wf = true := by
  rw [State.fixSector]
  dsimp only
  split
  · exact h
  · exact Sparse.wf_splice 0 _ _ _ h

theorem State.scrubSectors_wf {s : State} (h : s.memory.wf = true) (part : Nat) (ks : List Nat) :
    (s.scrubSectors part ks).memory.wf = true := by
  rw [State.scrubSectors]
  split
  · exact h
  · refine foldl_keeps (fun t : State => t.memory.wf = true) _ (fun t k ht => ?_) _ _ h
    dsimp only
    split
    · exact State.fixSector_wf ht _ _
    · exact ht

theorem Memory.touch_bytes (m : Memory) (p n : Nat) : (m.touch p n).bytes = m.bytes := by
  rw [Memory.touch]; split <;> rfl

theorem State.writeBytes_wf {s : State} (h : s.memory.wf = true) (p : Nat) (xs : List Byte) : (s.writeBytes p xs).memory.wf = true := by
  simp only [State.writeBytes, State.setMemory, Memory.wf]
  have hc (part : Nat) (ks : List Nat) := State.scrubSectors_wf (State.settle_wf h p xs.length) part ks
  split_ifs
  any_goals exact Sparse.wf_splice 0 _ p xs (hc _ _)
  all_goals exact foldl_keeps (fun b => Sparse.wf 0 b = true) _ (fun b k hb => Sparse.wf_splice 0 b _ _ hb) _ _ (hc _ _)

theorem State.writeNum_wf {s : State} (h : s.memory.wf = true) (p n x : Nat) : (s.writeNum p n x).memory.wf = true :=
  State.writeBytes_wf h p _

theorem State.clearedRow_wf {t : State} (h : t.memory.wf = true) (c : Bool) (row : Nat) :
    (if c then t.clearRow row else t).memory.wf = true := by
  split
  · exact State.clearRow_wf h row
  · exact h

theorem State.clearRows_wf {s : State} (h : s.memory.wf = true) (p n : Nat) : (s.clearRows p n).memory.wf = true := by
  rw [State.clearRows]
  split
  · exact h
  · rename_i hp
    clear hp
    generalize sectorsOf p n = ks
    induction ks generalizing s with
    | nil => exact h
    | cons k ks ih =>
      rw [List.foldl_cons]
      exact ih (State.clearedRow_wf h _ _)

theorem State.scrub_wf {s : State} (h : s.memory.wf = true) (part p n : Nat) : (s.scrub part p n).memory.wf = true := by
  rw [State.scrub]
  split
  · exact h
  · exact State.scrubSectors_wf h _ _

theorem State.took_wf {s : State} (h : s.memory.wf = true) (part p n : Nat) : (s.took part p n).memory.wf = true :=
  State.scrub_wf (State.clearRows_wf h p n) part p n

theorem State.putSector_wf {s : State} (h : s.memory.wf = true) (a : Nat) (data check : List Byte) :
    (s.putSector a data check).memory.wf = true :=
  Sparse.wf_splice 0 _ _ _ (State.settle_wf h _ _)

/-! ### Other writers -/

theorem State.poke_wf {s : State} (h : s.memory.wf = true) (a : Nat) (xs : List Byte) : (s.poke a xs).memory.wf = true :=
  Sparse.wf_splice 0 _ _ _ h

theorem State.placeText_wf {s : State} (h : s.memory.wf = true) (bs : List Byte) : (s.placeText bs).memory.wf = true :=
  Sparse.wf_splice 0 _ _ _ h

theorem State.storeCells_wf {s : State} (h : s.memory.wf = true) (a n : Nat) (cells : Sparse Byte) :
    (s.storeCells a n cells).memory.wf = true := by
  simp only [State.storeCells, State.setMemory, Memory.wf]
  generalize (if s.portOver a n then s.pastPorts a n cells else cells) = cells
  refine Sparse.wf_overlay 0 _ a n _ (State.settle_wf h a n) ?_ ?_
  · have hc := Sparse.wf_filter 0 (fun x => decide (x.1 < n)) _ (Sparse.wf_mend 0 cells)
    rw [Sparse.wf_iff] at hc ⊢
    refine ⟨?_, ?_⟩
    · rw [moved, List.pairwise_map]
      exact hc.1.imp fun hxy => Nat.add_lt_add_right hxy a
    · intro x hx
      obtain ⟨y, hy, rfl⟩ := List.mem_map.mp hx
      exact hc.2 y hy
  · intro x hx
    obtain ⟨y, hy, rfl⟩ := List.mem_map.mp hx
    have := (List.mem_filter.mp hy).2
    simp only [decide_eq_true_eq] at this
    exact ⟨by simp only; omega, by simp only; omega⟩

/-! ### Records and answers -/

theorem State.wake_memory (s : State) (k : CoreId) : (s.wake k).memory = s.memory := by
  rw [State.wake]
  split <;> rfl

theorem State.wakeQueue_memory (s : State) (k : CoreId) : (s.wakeQueue k).memory = s.memory := by
  rw [State.wakeQueue]
  dsimp only
  split <;> rfl

theorem State.tryRecord_wf {s t : State} {r : Rec} (h : s.memory.wf = true) (ht : s.tryRecord r = some t) : t.memory.wf = true := by
  rw [State.tryRecord] at ht
  dsimp only at ht
  split at ht
  · split at ht
    · cases ht
    · cases ht
      rw [State.wakeQueue_memory]
      exact State.writeBytes_wf h _ _
  · split at ht
    · cases ht
    · split at ht
      · cases ht
      · cases ht
        rw [State.wakeQueue_memory]
        exact State.writeBytes_wf h _ _

theorem State.record_wf {s : State} (h : s.memory.wf = true) (root : Bool) (p : Nat) (ws : List Nat) :
    (s.record root p ws).memory.wf = true := by
  rw [State.record]
  dsimp only
  split
  · exact h
  · split
    · exact State.tryRecord_wf h ‹_›
    · exact h

theorem State.send_wf {s : State} (h : s.memory.wf = true) (x : Flit) : (s.send x).memory.wf = true := by
  rw [State.send]
  split
  · exact h
  · exact State.record_wf h _ _ _

theorem State.answerTo_wf {s : State} (h : s.memory.wf = true) (who : Asker) (kind : Nat) (payload : List Byte) :
    (s.answerTo who kind payload).memory.wf = true := by
  cases who
  case berast => exact State.send_wf h _
  all_goals exact h

/-! ### Exceptions -/

theorem State.pushOnce_memory (s : State) (i : Instr) : (s.pushOnce i).memory = s.memory := by
  rw [State.pushOnce]; split <;> rfl

theorem State.setRing_memory (s : State) (t : TaskId) (r : Option Ring) : (s.setRing t r).memory = s.memory := by
  rw [State.setRing]; split <;> rfl

theorem State.holdBreak_memory (s : State) (p : Nat) (x : Flit) : (s.holdBreak p x).memory = s.memory := by
  rw [State.holdBreak]; split <;> rfl

theorem State.quitCtx_memory (s : State) (k : CoreId) : (s.quitCtx k).memory = s.memory := by
  rw [State.quitCtx]; split <;> rfl

theorem State.quitAsks_wf {s : State} (h : s.memory.wf = true) (k : CoreId) : (s.quitAsks k).memory.wf = true := by
  delta State.quitAsks
  extract_lets s1 _ s2 mine arrival keep _ s3
  have h1 : s1.memory.wf = true := by rw [State.quitCtx_memory]; exact h
  have h2 : s2.memory.wf = true := by
    simp only [s2]
    split <;> exact h1
  clear_value s2
  split
  · exact h2
  · exact foldl_keeps (fun t : State => t.memory.wf = true) _ (fun _ a ht => State.send_wf ht _) _ _ h2

theorem State.breakHere_memory (s : State) (t : TaskId) (r : Ring) : (s.breakHere t r).memory = s.memory := by
  delta State.breakHere
  extract_lets p s1 s2 stays s3
  rw [State.holdBreak_memory]
  have h1 : s1.memory = s.memory := by simp only [s1, State.pushOnce_memory, State.setRing_memory]
  clear_value s1
  refine foldl_keeps (fun u : State => u.memory = s.memory) _ (fun u m hu => ?_) _ _ h1
  split
  · exact hu
  · split
    · split
      · rw [State.pushOnce_memory, State.setRing_memory]; exact hu
      · exact hu
    · exact hu

theorem State.breakRing_wf {s : State} (h : s.memory.wf = true) (t : TaskId) : (s.breakRing t).memory.wf = true := by
  rw [State.breakRing]
  split
  · exact h
  · split
    · exact h
    · extract_lets p away
      refine foldl_keeps (fun u : State => u.memory.wf = true) _ (fun u _ hu => State.send_wf hu _) _ _ ?_
      rw [State.breakHere_memory]
      exact h

theorem State.dropMove_wf {s : State} (h : s.memory.wf = true) (t : TaskId) (cause : Nat) : (s.dropMove t cause).memory.wf = true := by
  delta State.dropMove
  split
  · exact h
  · split
    · exact h
    · split
      · exact h
      · extract_lets l ent s1 s2
        have h1 : s1.memory.wf = true := State.record_wf (s := s.setLaunch _ l) h _ _ _
        clear_value s1
        simp only [s2]
        split <;> exact h1

theorem State.enterRoot_wf {s : State} (h : s.memory.wf = true) (k : CoreId) (cause : Nat) (v w : Word) :
    (s.enterRoot k cause v w).memory.wf = true := by
  rw [State.enterRoot]
  split <;> exact h

theorem State.enterControl_wf {s : State} (h : s.memory.wf = true) (k : CoreId) (cls sub : Nat) (v w : Word) :
    (s.enterControl k cls sub v w).memory.wf = true := by
  rw [State.enterControl]
  split
  · exact State.enterRoot_wf h _ _ _ _
  · exact h

theorem State.walked_memory (s : State) (p : Nat) (t : Trap) : (s.walked p t).memory = s.memory := by
  rw [State.walked]; split <;> rfl

theorem State.breakRingAt_wf {s : State} (h : s.memory.wf = true) (k : CoreId) : (s.breakRingAt k).memory.wf = true := by
  rw [State.breakRingAt]
  split
  · exact State.breakRing_wf h _
  · exact h

theorem State.afterFault_wf {s : State} (h : s.memory.wf = true) (t : TaskId) : (s.afterFault t).memory.wf = true := by
  rw [State.afterFault]
  refine State.dropMove_wf ?_ _ _
  split
  · split
    · exact State.took_wf h _ _ _
    · exact h
  · exact h

/-- Taking an exception leaves memory in its form: of its bytes it changes records alone. -/
theorem State.takeFault_wf {s : State} (h : s.memory.wf = true) (k : CoreId) (e : Eng) (t : Trap) :
    (s.takeFault k e t).memory.wf = true := by
  delta State.takeFault
  extract_lets _ c iaddr s1 s2 _ s3 s4 _ s5 s6 s7
  have h3 : s3.memory.wf = true := Memory.wf_of_bytes (State.quitAsks_wf (s := s1) h k) rfl
  clear_value s3
  split
  · split
    · exact h3
    · have h4 : s4.memory.wf = true := State.record_wf h3 _ _ _
      clear_value s4
      have h5 : s5.memory.wf = true := by
        simp only [s5, State.walked_memory]
        exact State.breakRingAt_wf (s := s4.setCore _ _) h4 k
      clear_value s5
      split
      · exact State.afterFault_wf h5 _
      · exact h5
  · have h6 : s6.memory.wf = true := by simp only [s6, State.walked_memory]; exact h3
    clear_value s6
    refine State.enterControl_wf ?_ _ _ _ _ _
    simp only [s7]
    split
    · exact State.record_wf h6 _ _ _
    · exact h6
  · exact State.enterRoot_wf h3 _ _ _ _

theorem State.inform_wf {s : State} (h : s.memory.wf = true) (who : Asker) (v : Word) : (s.inform who v).memory.wf = true := by
  cases who
  case core | completion => exact h
  all_goals exact State.answerTo_wf h _ _ _

theorem State.faultBarr_wf {s : State} (h : s.memory.wf = true) (k : CoreId) (q ref : Word) : (s.faultBarr k q ref).memory.wf = true := by
  rw [State.faultBarr]
  split
  · exact State.takeFault_wf h _ _ _
  · exact h

theorem State.dropRegion_wf {s : State} (h : s.memory.wf = true) (lo n : Nat) : (s.dropRegion lo n).memory.wf = true := by
  delta State.dropRegion
  extract_lets inside m waits arrivals s1 s2 s3
  have h1 : s1.memory.wf = true := Sparse.wf_filter 0 _ _ h
  clear_value s1
  have h2 : s2.memory.wf = true :=
    foldl_keeps (fun t : State => t.memory.wf = true) _ (fun _ w ht => State.answerTo_wf ht w.2.2 62 [4]) _ _ h1
  clear_value s2
  have h3 : s3.memory.wf = true := by
    refine foldl_keeps (fun t : State => t.memory.wf = true) _ (fun t a ht => ?_) _ _ h2
    split
    · exact State.faultBarr_wf ht _ _ _
    · exact State.answerTo_wf ht _ _ _
  clear_value s3
  refine foldl_keeps (fun t : State => t.memory.wf = true) _ (fun t x ht => ?_) _ _ h3
  split
  · split
    · exact State.inform_wf ht _ _
    · exact ht
  · exact ht

theorem State.afterPower_wf {s : State} (h : s.memory.wf = true) : s.afterPower.memory.wf = true := by
  simp only [State.afterPower, Memory.wf]
  exact Sparse.wf_filter 0 _ _ h

end Sys2Proof.Machine
end

