-- ==== Sys2Proof/Laws/State.lean ====
section
/-! SUPPORT. What each update of the state leaves of its other fields. -/

namespace Sys2Proof.Machine

@[simp] theorem State.setMemory_cur (s : State) (m : Memory) : (s.setMemory m).cur = s.cur := rfl
@[simp] theorem State.setMemory_eng (s : State) (m : Memory) : (s.setMemory m).eng = s.eng := rfl
@[simp] theorem State.setMemory_next (s : State) (m : Memory) : (s.setMemory m).next = s.next := rfl
@[simp] theorem State.setMemory_turns (s : State) (m : Memory) : (s.setMemory m).turns = s.turns := rfl
@[simp] theorem State.setMemory_agenda (s : State) (m : Memory) : (s.setMemory m).agenda = s.agenda := rfl
@[simp] theorem State.setMemory_ccnt (s : State) (m : Memory) : (s.setMemory m).ccnt = s.ccnt := rfl
@[simp] theorem State.setMemory_due (s : State) (m : Memory) : (s.setMemory m).due = s.due := rfl
@[simp] theorem State.setMemory_dramGiB (s : State) (m : Memory) : (s.setMemory m).dramGiB = s.dramGiB := rfl
@[simp] theorem State.setMemory_cores (s : State) (m : Memory) : (s.setMemory m).cores = s.cores := rfl
@[simp] theorem State.setMemory_parts (s : State) (m : Memory) : (s.setMemory m).parts = s.parts := rfl
@[simp] theorem State.setMemory_sched (s : State) (m : Memory) : (s.setMemory m).sched = s.sched := rfl
@[simp] theorem State.setMemory_movers (s : State) (m : Memory) : (s.setMemory m).movers = s.movers := rfl
@[simp] theorem State.setMemory_edge (s : State) (m : Memory) : (s.setMemory m).edge = s.edge := rfl

@[simp] theorem State.setEdge_cur (s : State) (x : Edge) : (s.setEdge x).cur = s.cur := rfl
@[simp] theorem State.setEdge_eng (s : State) (x : Edge) : (s.setEdge x).eng = s.eng := rfl
@[simp] theorem State.setEdge_next (s : State) (x : Edge) : (s.setEdge x).next = s.next := rfl
@[simp] theorem State.setEdge_turns (s : State) (x : Edge) : (s.setEdge x).turns = s.turns := rfl
@[simp] theorem State.setEdge_agenda (s : State) (x : Edge) : (s.setEdge x).agenda = s.agenda := rfl
@[simp] theorem State.setEdge_ccnt (s : State) (x : Edge) : (s.setEdge x).ccnt = s.ccnt := rfl
@[simp] theorem State.setEdge_due (s : State) (x : Edge) : (s.setEdge x).due = s.due := rfl
@[simp] theorem State.setEdge_dramGiB (s : State) (x : Edge) : (s.setEdge x).dramGiB = s.dramGiB := rfl
@[simp] theorem State.setEdge_cores (s : State) (x : Edge) : (s.setEdge x).cores = s.cores := rfl
@[simp] theorem State.setEdge_memory (s : State) (x : Edge) : (s.setEdge x).memory = s.memory := rfl
@[simp] theorem State.setEdge_parts (s : State) (x : Edge) : (s.setEdge x).parts = s.parts := rfl
@[simp] theorem State.setEdge_sched (s : State) (x : Edge) : (s.setEdge x).sched = s.sched := rfl
@[simp] theorem State.setEdge_movers (s : State) (x : Edge) : (s.setEdge x).movers = s.movers := rfl

@[simp] theorem State.setMovers_cur (s : State) (x : Movers) : (s.setMovers x).cur = s.cur := rfl
@[simp] theorem State.setMovers_eng (s : State) (x : Movers) : (s.setMovers x).eng = s.eng := rfl
@[simp] theorem State.setMovers_next (s : State) (x : Movers) : (s.setMovers x).next = s.next := rfl
@[simp] theorem State.setMovers_turns (s : State) (x : Movers) : (s.setMovers x).turns = s.turns := rfl
@[simp] theorem State.setMovers_agenda (s : State) (x : Movers) : (s.setMovers x).agenda = s.agenda := rfl
@[simp] theorem State.setMovers_ccnt (s : State) (x : Movers) : (s.setMovers x).ccnt = s.ccnt := rfl
@[simp] theorem State.setMovers_due (s : State) (x : Movers) : (s.setMovers x).due = s.due := rfl
@[simp] theorem State.setMovers_dramGiB (s : State) (x : Movers) : (s.setMovers x).dramGiB = s.dramGiB := rfl
@[simp] theorem State.setMovers_cores (s : State) (x : Movers) : (s.setMovers x).cores = s.cores := rfl
@[simp] theorem State.setMovers_memory (s : State) (x : Movers) : (s.setMovers x).memory = s.memory := rfl
@[simp] theorem State.setMovers_parts (s : State) (x : Movers) : (s.setMovers x).parts = s.parts := rfl
@[simp] theorem State.setMovers_sched (s : State) (x : Movers) : (s.setMovers x).sched = s.sched := rfl
@[simp] theorem State.setMovers_edge (s : State) (x : Movers) : (s.setMovers x).edge = s.edge := rfl

@[simp] theorem State.setCore_cur (s : State) (k : CoreId) (c : Core) : (s.setCore k c).cur = s.cur := rfl
@[simp] theorem State.setCore_eng (s : State) (k : CoreId) (c : Core) : (s.setCore k c).eng = s.eng := rfl
@[simp] theorem State.setCore_next (s : State) (k : CoreId) (c : Core) : (s.setCore k c).next = s.next := rfl
@[simp] theorem State.setCore_turns (s : State) (k : CoreId) (c : Core) : (s.setCore k c).turns = s.turns := rfl
@[simp] theorem State.setCore_agenda (s : State) (k : CoreId) (c : Core) : (s.setCore k c).agenda = s.agenda := rfl
@[simp] theorem State.setCore_ccnt (s : State) (k : CoreId) (c : Core) : (s.setCore k c).ccnt = s.ccnt := rfl
@[simp] theorem State.setCore_due (s : State) (k : CoreId) (c : Core) : (s.setCore k c).due = s.due := rfl
@[simp] theorem State.setCore_dramGiB (s : State) (k : CoreId) (c : Core) : (s.setCore k c).dramGiB = s.dramGiB := rfl
@[simp] theorem State.setCore_memory (s : State) (k : CoreId) (c : Core) : (s.setCore k c).memory = s.memory := rfl
@[simp] theorem State.setCore_parts (s : State) (k : CoreId) (c : Core) : (s.setCore k c).parts = s.parts := rfl
@[simp] theorem State.setCore_sched (s : State) (k : CoreId) (c : Core) : (s.setCore k c).sched = s.sched := rfl
@[simp] theorem State.setCore_movers (s : State) (k : CoreId) (c : Core) : (s.setCore k c).movers = s.movers := rfl
@[simp] theorem State.setCore_edge (s : State) (k : CoreId) (c : Core) : (s.setCore k c).edge = s.edge := rfl

@[simp] theorem State.setTask_cur (s : State) (t : TaskId) (x : Task) : (s.setTask t x).cur = s.cur := rfl
@[simp] theorem State.setTask_eng (s : State) (t : TaskId) (x : Task) : (s.setTask t x).eng = s.eng := rfl
@[simp] theorem State.setTask_next (s : State) (t : TaskId) (x : Task) : (s.setTask t x).next = s.next := rfl
@[simp] theorem State.setTask_turns (s : State) (t : TaskId) (x : Task) : (s.setTask t x).turns = s.turns := rfl
@[simp] theorem State.setTask_agenda (s : State) (t : TaskId) (x : Task) : (s.setTask t x).agenda = s.agenda := rfl
@[simp] theorem State.setTask_ccnt (s : State) (t : TaskId) (x : Task) : (s.setTask t x).ccnt = s.ccnt := rfl
@[simp] theorem State.setTask_due (s : State) (t : TaskId) (x : Task) : (s.setTask t x).due = s.due := rfl
@[simp] theorem State.setTask_dramGiB (s : State) (t : TaskId) (x : Task) : (s.setTask t x).dramGiB = s.dramGiB := rfl
@[simp] theorem State.setTask_cores (s : State) (t : TaskId) (x : Task) : (s.setTask t x).cores = s.cores := rfl
@[simp] theorem State.setTask_memory (s : State) (t : TaskId) (x : Task) : (s.setTask t x).memory = s.memory := rfl
@[simp] theorem State.setTask_parts (s : State) (t : TaskId) (x : Task) : (s.setTask t x).parts = s.parts := rfl
@[simp] theorem State.setTask_movers (s : State) (t : TaskId) (x : Task) : (s.setTask t x).movers = s.movers := rfl
@[simp] theorem State.setTask_edge (s : State) (t : TaskId) (x : Task) : (s.setTask t x).edge = s.edge := rfl

@[simp] theorem State.setLaunch_cur (s : State) (l : LaunchId) (x : Launch) : (s.setLaunch l x).cur = s.cur := rfl
@[simp] theorem State.setLaunch_eng (s : State) (l : LaunchId) (x : Launch) : (s.setLaunch l x).eng = s.eng := rfl
@[simp] theorem State.setLaunch_next (s : State) (l : LaunchId) (x : Launch) : (s.setLaunch l x).next = s.next := rfl
@[simp] theorem State.setLaunch_turns (s : State) (l : LaunchId) (x : Launch) : (s.setLaunch l x).turns = s.turns := rfl
@[simp] theorem State.setLaunch_agenda (s : State) (l : LaunchId) (x : Launch) : (s.setLaunch l x).agenda = s.agenda := rfl
@[simp] theorem State.setLaunch_ccnt (s : State) (l : LaunchId) (x : Launch) : (s.setLaunch l x).ccnt = s.ccnt := rfl
@[simp] theorem State.setLaunch_due (s : State) (l : LaunchId) (x : Launch) : (s.setLaunch l x).due = s.due := rfl
@[simp] theorem State.setLaunch_dramGiB (s : State) (l : LaunchId) (x : Launch) : (s.setLaunch l x).dramGiB = s.dramGiB := rfl
@[simp] theorem State.setLaunch_cores (s : State) (l : LaunchId) (x : Launch) : (s.setLaunch l x).cores = s.cores := rfl
@[simp] theorem State.setLaunch_memory (s : State) (l : LaunchId) (x : Launch) : (s.setLaunch l x).memory = s.memory := rfl
@[simp] theorem State.setLaunch_parts (s : State) (l : LaunchId) (x : Launch) : (s.setLaunch l x).parts = s.parts := rfl
@[simp] theorem State.setLaunch_movers (s : State) (l : LaunchId) (x : Launch) : (s.setLaunch l x).movers = s.movers := rfl
@[simp] theorem State.setLaunch_edge (s : State) (l : LaunchId) (x : Launch) : (s.setLaunch l x).edge = s.edge := rfl

@[simp] theorem State.setQueue_cur (s : State) (i : Nat) (q : Queue) : (s.setQueue i q).cur = s.cur := rfl
@[simp] theorem State.setQueue_eng (s : State) (i : Nat) (q : Queue) : (s.setQueue i q).eng = s.eng := rfl
@[simp] theorem State.setQueue_next (s : State) (i : Nat) (q : Queue) : (s.setQueue i q).next = s.next := rfl
@[simp] theorem State.setQueue_turns (s : State) (i : Nat) (q : Queue) : (s.setQueue i q).turns = s.turns := rfl
@[simp] theorem State.setQueue_agenda (s : State) (i : Nat) (q : Queue) : (s.setQueue i q).agenda = s.agenda := rfl
@[simp] theorem State.setQueue_ccnt (s : State) (i : Nat) (q : Queue) : (s.setQueue i q).ccnt = s.ccnt := rfl
@[simp] theorem State.setQueue_due (s : State) (i : Nat) (q : Queue) : (s.setQueue i q).due = s.due := rfl
@[simp] theorem State.setQueue_dramGiB (s : State) (i : Nat) (q : Queue) : (s.setQueue i q).dramGiB = s.dramGiB := rfl
@[simp] theorem State.setQueue_cores (s : State) (i : Nat) (q : Queue) : (s.setQueue i q).cores = s.cores := rfl
@[simp] theorem State.setQueue_memory (s : State) (i : Nat) (q : Queue) : (s.setQueue i q).memory = s.memory := rfl
@[simp] theorem State.setQueue_parts (s : State) (i : Nat) (q : Queue) : (s.setQueue i q).parts = s.parts := rfl
@[simp] theorem State.setQueue_movers (s : State) (i : Nat) (q : Queue) : (s.setQueue i q).movers = s.movers := rfl
@[simp] theorem State.setQueue_edge (s : State) (i : Nat) (q : Queue) : (s.setQueue i q).edge = s.edge := rfl

@[simp] theorem State.setPart_cur (s : State) (p : Nat) (x : Part) : (s.setPart p x).cur = s.cur := rfl
@[simp] theorem State.setPart_eng (s : State) (p : Nat) (x : Part) : (s.setPart p x).eng = s.eng := rfl
@[simp] theorem State.setPart_next (s : State) (p : Nat) (x : Part) : (s.setPart p x).next = s.next := rfl
@[simp] theorem State.setPart_turns (s : State) (p : Nat) (x : Part) : (s.setPart p x).turns = s.turns := rfl
@[simp] theorem State.setPart_agenda (s : State) (p : Nat) (x : Part) : (s.setPart p x).agenda = s.agenda := rfl
@[simp] theorem State.setPart_ccnt (s : State) (p : Nat) (x : Part) : (s.setPart p x).ccnt = s.ccnt := rfl
@[simp] theorem State.setPart_due (s : State) (p : Nat) (x : Part) : (s.setPart p x).due = s.due := rfl
@[simp] theorem State.setPart_dramGiB (s : State) (p : Nat) (x : Part) : (s.setPart p x).dramGiB = s.dramGiB := rfl
@[simp] theorem State.setPart_cores (s : State) (p : Nat) (x : Part) : (s.setPart p x).cores = s.cores := rfl
@[simp] theorem State.setPart_memory (s : State) (p : Nat) (x : Part) : (s.setPart p x).memory = s.memory := rfl
@[simp] theorem State.setPart_sched (s : State) (p : Nat) (x : Part) : (s.setPart p x).sched = s.sched := rfl
@[simp] theorem State.setPart_movers (s : State) (p : Nat) (x : Part) : (s.setPart p x).movers = s.movers := rfl
@[simp] theorem State.setPart_edge (s : State) (p : Nat) (x : Part) : (s.setPart p x).edge = s.edge := rfl

@[simp] theorem State.setMe_cur (s : State) (c : Core) : (s.setMe c).cur = s.cur := rfl
@[simp] theorem State.setMe_eng (s : State) (c : Core) : (s.setMe c).eng = s.eng := rfl
@[simp] theorem State.setMe_next (s : State) (c : Core) : (s.setMe c).next = s.next := rfl
@[simp] theorem State.setMe_turns (s : State) (c : Core) : (s.setMe c).turns = s.turns := rfl
@[simp] theorem State.setMe_agenda (s : State) (c : Core) : (s.setMe c).agenda = s.agenda := rfl
@[simp] theorem State.setMe_ccnt (s : State) (c : Core) : (s.setMe c).ccnt = s.ccnt := rfl
@[simp] theorem State.setMe_due (s : State) (c : Core) : (s.setMe c).due = s.due := rfl
@[simp] theorem State.setMe_dramGiB (s : State) (c : Core) : (s.setMe c).dramGiB = s.dramGiB := rfl
@[simp] theorem State.setMe_memory (s : State) (c : Core) : (s.setMe c).memory = s.memory := rfl
@[simp] theorem State.setMe_parts (s : State) (c : Core) : (s.setMe c).parts = s.parts := rfl
@[simp] theorem State.setMe_sched (s : State) (c : Core) : (s.setMe c).sched = s.sched := rfl
@[simp] theorem State.setMe_movers (s : State) (c : Core) : (s.setMe c).movers = s.movers := rfl
@[simp] theorem State.setMe_edge (s : State) (c : Core) : (s.setMe c).edge = s.edge := rfl

@[simp] theorem State.setRootCsr_cur (s : State) (n : Nat) (v : Word) : (s.setRootCsr n v).cur = s.cur := rfl
@[simp] theorem State.setRootCsr_eng (s : State) (n : Nat) (v : Word) : (s.setRootCsr n v).eng = s.eng := rfl
@[simp] theorem State.setRootCsr_next (s : State) (n : Nat) (v : Word) : (s.setRootCsr n v).next = s.next := rfl
@[simp] theorem State.setRootCsr_turns (s : State) (n : Nat) (v : Word) : (s.setRootCsr n v).turns = s.turns := rfl
@[simp] theorem State.setRootCsr_agenda (s : State) (n : Nat) (v : Word) : (s.setRootCsr n v).agenda = s.agenda := rfl
@[simp] theorem State.setRootCsr_ccnt (s : State) (n : Nat) (v : Word) : (s.setRootCsr n v).ccnt = s.ccnt := rfl
@[simp] theorem State.setRootCsr_due (s : State) (n : Nat) (v : Word) : (s.setRootCsr n v).due = s.due := rfl
@[simp] theorem State.setRootCsr_dramGiB (s : State) (n : Nat) (v : Word) : (s.setRootCsr n v).dramGiB = s.dramGiB := rfl
@[simp] theorem State.setRootCsr_cores (s : State) (n : Nat) (v : Word) : (s.setRootCsr n v).cores = s.cores := rfl
@[simp] theorem State.setRootCsr_memory (s : State) (n : Nat) (v : Word) : (s.setRootCsr n v).memory = s.memory := rfl
@[simp] theorem State.setRootCsr_parts (s : State) (n : Nat) (v : Word) : (s.setRootCsr n v).parts = s.parts := rfl
@[simp] theorem State.setRootCsr_sched (s : State) (n : Nat) (v : Word) : (s.setRootCsr n v).sched = s.sched := rfl
@[simp] theorem State.setRootCsr_movers (s : State) (n : Nat) (v : Word) : (s.setRootCsr n v).movers = s.movers := rfl

@[simp] theorem State.setCtl_cur (s : State) (k n : Nat) (v : Word) : (s.setCtl k n v).cur = s.cur := rfl
@[simp] theorem State.setCtl_eng (s : State) (k n : Nat) (v : Word) : (s.setCtl k n v).eng = s.eng := rfl
@[simp] theorem State.setCtl_next (s : State) (k n : Nat) (v : Word) : (s.setCtl k n v).next = s.next := rfl
@[simp] theorem State.setCtl_turns (s : State) (k n : Nat) (v : Word) : (s.setCtl k n v).turns = s.turns := rfl
@[simp] theorem State.setCtl_agenda (s : State) (k n : Nat) (v : Word) : (s.setCtl k n v).agenda = s.agenda := rfl
@[simp] theorem State.setCtl_ccnt (s : State) (k n : Nat) (v : Word) : (s.setCtl k n v).ccnt = s.ccnt := rfl
@[simp] theorem State.setCtl_due (s : State) (k n : Nat) (v : Word) : (s.setCtl k n v).due = s.due := rfl
@[simp] theorem State.setCtl_dramGiB (s : State) (k n : Nat) (v : Word) : (s.setCtl k n v).dramGiB = s.dramGiB := rfl
@[simp] theorem State.setCtl_cores (s : State) (k n : Nat) (v : Word) : (s.setCtl k n v).cores = s.cores := rfl
@[simp] theorem State.setCtl_memory (s : State) (k n : Nat) (v : Word) : (s.setCtl k n v).memory = s.memory := rfl
@[simp] theorem State.setCtl_parts (s : State) (k n : Nat) (v : Word) : (s.setCtl k n v).parts = s.parts := rfl
@[simp] theorem State.setCtl_sched (s : State) (k n : Nat) (v : Word) : (s.setCtl k n v).sched = s.sched := rfl
@[simp] theorem State.setCtl_movers (s : State) (k n : Nat) (v : Word) : (s.setCtl k n v).movers = s.movers := rfl

@[simp] theorem State.push_cur (s : State) (i : Instr) : (s.push i).cur = s.cur := rfl
@[simp] theorem State.push_eng (s : State) (i : Instr) : (s.push i).eng = s.eng := rfl
@[simp] theorem State.push_next (s : State) (i : Instr) : (s.push i).next = s.next := rfl
@[simp] theorem State.push_turns (s : State) (i : Instr) : (s.push i).turns = s.turns := rfl
@[simp] theorem State.push_ccnt (s : State) (i : Instr) : (s.push i).ccnt = s.ccnt := rfl
@[simp] theorem State.push_due (s : State) (i : Instr) : (s.push i).due = s.due := rfl
@[simp] theorem State.push_dramGiB (s : State) (i : Instr) : (s.push i).dramGiB = s.dramGiB := rfl
@[simp] theorem State.push_cores (s : State) (i : Instr) : (s.push i).cores = s.cores := rfl
@[simp] theorem State.push_memory (s : State) (i : Instr) : (s.push i).memory = s.memory := rfl
@[simp] theorem State.push_parts (s : State) (i : Instr) : (s.push i).parts = s.parts := rfl
@[simp] theorem State.push_sched (s : State) (i : Instr) : (s.push i).sched = s.sched := rfl
@[simp] theorem State.push_movers (s : State) (i : Instr) : (s.push i).movers = s.movers := rfl
@[simp] theorem State.push_edge (s : State) (i : Instr) : (s.push i).edge = s.edge := rfl

@[simp] theorem State.wr_cur (s : State) (r : Reg) (v : Word) : (s.wr r v).cur = s.cur := rfl
@[simp] theorem State.wr_eng (s : State) (r : Reg) (v : Word) : (s.wr r v).eng = s.eng := rfl
@[simp] theorem State.wr_next (s : State) (r : Reg) (v : Word) : (s.wr r v).next = s.next := rfl
@[simp] theorem State.wr_turns (s : State) (r : Reg) (v : Word) : (s.wr r v).turns = s.turns := rfl
@[simp] theorem State.wr_agenda (s : State) (r : Reg) (v : Word) : (s.wr r v).agenda = s.agenda := rfl
@[simp] theorem State.wr_ccnt (s : State) (r : Reg) (v : Word) : (s.wr r v).ccnt = s.ccnt := rfl
@[simp] theorem State.wr_due (s : State) (r : Reg) (v : Word) : (s.wr r v).due = s.due := rfl
@[simp] theorem State.wr_dramGiB (s : State) (r : Reg) (v : Word) : (s.wr r v).dramGiB = s.dramGiB := rfl
@[simp] theorem State.wr_memory (s : State) (r : Reg) (v : Word) : (s.wr r v).memory = s.memory := rfl
@[simp] theorem State.wr_parts (s : State) (r : Reg) (v : Word) : (s.wr r v).parts = s.parts := rfl
@[simp] theorem State.wr_sched (s : State) (r : Reg) (v : Word) : (s.wr r v).sched = s.sched := rfl
@[simp] theorem State.wr_movers (s : State) (r : Reg) (v : Word) : (s.wr r v).movers = s.movers := rfl
@[simp] theorem State.wr_edge (s : State) (r : Reg) (v : Word) : (s.wr r v).edge = s.edge := rfl

@[simp] theorem State.setWait_cur (s : State) (k : CoreId) (e : Eng) (w : Wait) : (s.setWait k e w).cur = s.cur := rfl
@[simp] theorem State.setWait_eng (s : State) (k : CoreId) (e : Eng) (w : Wait) : (s.setWait k e w).eng = s.eng := rfl
@[simp] theorem State.setWait_next (s : State) (k : CoreId) (e : Eng) (w : Wait) : (s.setWait k e w).next = s.next := rfl
@[simp] theorem State.setWait_turns (s : State) (k : CoreId) (e : Eng) (w : Wait) : (s.setWait k e w).turns = s.turns := rfl
@[simp] theorem State.setWait_agenda (s : State) (k : CoreId) (e : Eng) (w : Wait) : (s.setWait k e w).agenda = s.agenda := rfl
@[simp] theorem State.setWait_ccnt (s : State) (k : CoreId) (e : Eng) (w : Wait) : (s.setWait k e w).ccnt = s.ccnt := rfl
@[simp] theorem State.setWait_due (s : State) (k : CoreId) (e : Eng) (w : Wait) : (s.setWait k e w).due = s.due := rfl
@[simp] theorem State.setWait_dramGiB (s : State) (k : CoreId) (e : Eng) (w : Wait) : (s.setWait k e w).dramGiB = s.dramGiB := rfl
@[simp] theorem State.setWait_memory (s : State) (k : CoreId) (e : Eng) (w : Wait) : (s.setWait k e w).memory = s.memory := rfl
@[simp] theorem State.setWait_parts (s : State) (k : CoreId) (e : Eng) (w : Wait) : (s.setWait k e w).parts = s.parts := rfl
@[simp] theorem State.setWait_sched (s : State) (k : CoreId) (e : Eng) (w : Wait) : (s.setWait k e w).sched = s.sched := rfl
@[simp] theorem State.setWait_movers (s : State) (k : CoreId) (e : Eng) (w : Wait) : (s.setWait k e w).movers = s.movers := rfl
@[simp] theorem State.setWait_edge (s : State) (k : CoreId) (e : Eng) (w : Wait) : (s.setWait k e w).edge = s.edge := rfl

@[simp] theorem State.setMemory_memory (s : State) (m : Memory) : (s.setMemory m).memory = m := rfl
@[simp] theorem State.setEdge_edge (s : State) (x : Edge) : (s.setEdge x).edge = x := rfl
@[simp] theorem State.setMovers_movers (s : State) (x : Movers) : (s.setMovers x).movers = x := rfl

theorem assoc_assocPut {α : Type} (m : List (Nat × α)) (k j : Nat) (x : α) :
    assoc (assocPut m k x) j = if j = k then some x else assoc m j := by
  induction m with
  | nil => simp only [assocPut, assoc, eq_comm]
  | cons y m ih =>
    obtain ⟨i, v⟩ := y
    rw [assocPut]
    split
    · rename_i h
      simp only [assoc, ih]
      by_cases hi : i = j
      · subst hi; simp [Nat.ne_of_lt h]
      · simp [hi]
    · split
      · rename_i h; subst h
        simp only [assoc]
        by_cases hi : i = j
        · subst hi; simp
        · simp [hi, Ne.symm hi]
      · simp only [assoc]
        by_cases hk : k = j
        · subst hk; simp
        · simp [hk, Ne.symm hk]

@[simp] theorem State.core_setCore (s : State) (k j : CoreId) (c : Core) :
    (s.setCore k c).core j = if j = k then c else s.core j := by
  simp only [State.core, State.setCore, assoc_assocPut]
  split <;> rfl

@[simp] theorem State.me_setMe (s : State) (c : Core) : (s.setMe c).me = c := by
  simp only [State.me, State.setMe, State.core_setCore, State.setCore_cur, if_true]

theorem State.core_setMe (s : State) (c : Core) (k : CoreId) : (s.setMe c).core k = if k = s.cur then c else s.core k := by
  simp only [State.setMe, State.core_setCore]

@[simp] theorem State.task_setTask (s : State) (t u : TaskId) (x : Task) :
    (s.setTask t x).task u = if u = t then some x else s.task u := by
  simp only [State.task, State.setTask, assoc_assocPut]

@[simp] theorem State.launch_setLaunch (s : State) (l m : LaunchId) (x : Launch) :
    (s.setLaunch l x).launch m = if m = l then some x else s.launch m := by
  simp only [State.launch, State.setLaunch, assoc_assocPut]

@[simp] theorem State.queue_setQueue (s : State) (i j : Nat) (q : Queue) :
    (s.setQueue i q).queue j = if j = i then q else s.queue j := by
  simp only [State.queue, State.setQueue, assoc_assocPut]
  split <;> rfl

@[simp] theorem State.part_setPart (s : State) (p q : Nat) (x : Part) :
    (s.setPart p x).part q = if q = p then x else s.part q := by
  simp only [State.part, State.setPart, assoc_assocPut]
  split <;> rfl

@[simp] theorem State.core_setMemory (s : State) (m : Memory) (k' : CoreId) : (s.setMemory m).core k' = s.core k' := rfl
@[simp] theorem State.task_setMemory (s : State) (m : Memory) (u : TaskId) : (s.setMemory m).task u = s.task u := rfl
@[simp] theorem State.launch_setMemory (s : State) (m : Memory) (l' : LaunchId) : (s.setMemory m).launch l' = s.launch l' := rfl
@[simp] theorem State.queue_setMemory (s : State) (m : Memory) (j : Nat) : (s.setMemory m).queue j = s.queue j := rfl
@[simp] theorem State.part_setMemory (s : State) (m : Memory) (q' : Nat) : (s.setMemory m).part q' = s.part q' := rfl
@[simp] theorem State.core_setEdge (s : State) (x : Edge) (k' : CoreId) : (s.setEdge x).core k' = s.core k' := rfl
@[simp] theorem State.task_setEdge (s : State) (x : Edge) (u : TaskId) : (s.setEdge x).task u = s.task u := rfl
@[simp] theorem State.launch_setEdge (s : State) (x : Edge) (l' : LaunchId) : (s.setEdge x).launch l' = s.launch l' := rfl
@[simp] theorem State.queue_setEdge (s : State) (x : Edge) (j : Nat) : (s.setEdge x).queue j = s.queue j := rfl
@[simp] theorem State.part_setEdge (s : State) (x : Edge) (q' : Nat) : (s.setEdge x).part q' = s.part q' := rfl
@[simp] theorem State.core_setMovers (s : State) (x : Movers) (k' : CoreId) : (s.setMovers x).core k' = s.core k' := rfl
@[simp] theorem State.task_setMovers (s : State) (x : Movers) (u : TaskId) : (s.setMovers x).task u = s.task u := rfl
@[simp] theorem State.launch_setMovers (s : State) (x : Movers) (l' : LaunchId) : (s.setMovers x).launch l' = s.launch l' := rfl
@[simp] theorem State.queue_setMovers (s : State) (x : Movers) (j : Nat) : (s.setMovers x).queue j = s.queue j := rfl
@[simp] theorem State.part_setMovers (s : State) (x : Movers) (q' : Nat) : (s.setMovers x).part q' = s.part q' := rfl
@[simp] theorem State.task_setCore (s : State) (k : CoreId) (c : Core) (u : TaskId) : (s.setCore k c).task u = s.task u := rfl
@[simp] theorem State.launch_setCore (s : State) (k : CoreId) (c : Core) (l' : LaunchId) : (s.setCore k c).launch l' = s.launch l' := rfl
@[simp] theorem State.queue_setCore (s : State) (k : CoreId) (c : Core) (j : Nat) : (s.setCore k c).queue j = s.queue j := rfl
@[simp] theorem State.part_setCore (s : State) (k : CoreId) (c : Core) (q' : Nat) : (s.setCore k c).part q' = s.part q' := rfl
@[simp] theorem State.core_setTask (s : State) (t : TaskId) (x : Task) (k' : CoreId) : (s.setTask t x).core k' = s.core k' := rfl
@[simp] theorem State.part_setTask (s : State) (t : TaskId) (x : Task) (q' : Nat) : (s.setTask t x).part q' = s.part q' := rfl
@[simp] theorem State.core_setLaunch (s : State) (l : LaunchId) (x : Launch) (k' : CoreId) : (s.setLaunch l x).core k' = s.core k' := rfl
@[simp] theorem State.part_setLaunch (s : State) (l : LaunchId) (x : Launch) (q' : Nat) : (s.setLaunch l x).part q' = s.part q' := rfl
@[simp] theorem State.core_setQueue (s : State) (i : Nat) (q : Queue) (k' : CoreId) : (s.setQueue i q).core k' = s.core k' := rfl
@[simp] theorem State.part_setQueue (s : State) (i : Nat) (q : Queue) (q' : Nat) : (s.setQueue i q).part q' = s.part q' := rfl
@[simp] theorem State.core_setPart (s : State) (p : Nat) (x : Part) (k' : CoreId) : (s.setPart p x).core k' = s.core k' := rfl
@[simp] theorem State.task_setPart (s : State) (p : Nat) (x : Part) (u : TaskId) : (s.setPart p x).task u = s.task u := rfl
@[simp] theorem State.launch_setPart (s : State) (p : Nat) (x : Part) (l' : LaunchId) : (s.setPart p x).launch l' = s.launch l' := rfl
@[simp] theorem State.queue_setPart (s : State) (p : Nat) (x : Part) (j : Nat) : (s.setPart p x).queue j = s.queue j := rfl
@[simp] theorem State.task_setMe (s : State) (c : Core) (u : TaskId) : (s.setMe c).task u = s.task u := rfl
@[simp] theorem State.launch_setMe (s : State) (c : Core) (l' : LaunchId) : (s.setMe c).launch l' = s.launch l' := rfl
@[simp] theorem State.queue_setMe (s : State) (c : Core) (j : Nat) : (s.setMe c).queue j = s.queue j := rfl
@[simp] theorem State.part_setMe (s : State) (c : Core) (q' : Nat) : (s.setMe c).part q' = s.part q' := rfl
@[simp] theorem State.core_setRootCsr (s : State) (n : Nat) (v : Word) (k' : CoreId) : (s.setRootCsr n v).core k' = s.core k' := rfl
@[simp] theorem State.task_setRootCsr (s : State) (n : Nat) (v : Word) (u : TaskId) : (s.setRootCsr n v).task u = s.task u := rfl
@[simp] theorem State.launch_setRootCsr (s : State) (n : Nat) (v : Word) (l' : LaunchId) : (s.setRootCsr n v).launch l' = s.launch l' := rfl
@[simp] theorem State.queue_setRootCsr (s : State) (n : Nat) (v : Word) (j : Nat) : (s.setRootCsr n v).queue j = s.queue j := rfl
@[simp] theorem State.part_setRootCsr (s : State) (n : Nat) (v : Word) (q' : Nat) : (s.setRootCsr n v).part q' = s.part q' := rfl
@[simp] theorem State.core_setCtl (s : State) (k n : Nat) (v : Word) (k' : CoreId) : (s.setCtl k n v).core k' = s.core k' := rfl
@[simp] theorem State.task_setCtl (s : State) (k n : Nat) (v : Word) (u : TaskId) : (s.setCtl k n v).task u = s.task u := rfl
@[simp] theorem State.launch_setCtl (s : State) (k n : Nat) (v : Word) (l' : LaunchId) : (s.setCtl k n v).launch l' = s.launch l' := rfl
@[simp] theorem State.queue_setCtl (s : State) (k n : Nat) (v : Word) (j : Nat) : (s.setCtl k n v).queue j = s.queue j := rfl
@[simp] theorem State.part_setCtl (s : State) (k n : Nat) (v : Word) (q' : Nat) : (s.setCtl k n v).part q' = s.part q' := rfl
@[simp] theorem State.core_push (s : State) (i : Instr) (k' : CoreId) : (s.push i).core k' = s.core k' := rfl
@[simp] theorem State.task_push (s : State) (i : Instr) (u : TaskId) : (s.push i).task u = s.task u := rfl
@[simp] theorem State.launch_push (s : State) (i : Instr) (l' : LaunchId) : (s.push i).launch l' = s.launch l' := rfl
@[simp] theorem State.queue_push (s : State) (i : Instr) (j : Nat) : (s.push i).queue j = s.queue j := rfl
@[simp] theorem State.part_push (s : State) (i : Instr) (q' : Nat) : (s.push i).part q' = s.part q' := rfl
@[simp] theorem State.task_wr (s : State) (r : Reg) (v : Word) (u : TaskId) : (s.wr r v).task u = s.task u := rfl
@[simp] theorem State.launch_wr (s : State) (r : Reg) (v : Word) (l' : LaunchId) : (s.wr r v).launch l' = s.launch l' := rfl
@[simp] theorem State.queue_wr (s : State) (r : Reg) (v : Word) (j : Nat) : (s.wr r v).queue j = s.queue j := rfl
@[simp] theorem State.part_wr (s : State) (r : Reg) (v : Word) (q' : Nat) : (s.wr r v).part q' = s.part q' := rfl
@[simp] theorem State.task_setWait (s : State) (k : CoreId) (e : Eng) (w : Wait) (u : TaskId) : (s.setWait k e w).task u = s.task u := rfl
@[simp] theorem State.launch_setWait (s : State) (k : CoreId) (e : Eng) (w : Wait) (l' : LaunchId) : (s.setWait k e w).launch l' = s.launch l' := rfl
@[simp] theorem State.queue_setWait (s : State) (k : CoreId) (e : Eng) (w : Wait) (j : Nat) : (s.setWait k e w).queue j = s.queue j := rfl
@[simp] theorem State.part_setWait (s : State) (k : CoreId) (e : Eng) (w : Wait) (q' : Nat) : (s.setWait k e w).part q' = s.part q' := rfl
@[simp] theorem State.launch_setTask (s : State) (t : TaskId) (x : Task) (l' : LaunchId) : (s.setTask t x).launch l' = s.launch l' := rfl
@[simp] theorem State.queue_setTask (s : State) (t : TaskId) (x : Task) (j : Nat) : (s.setTask t x).queue j = s.queue j := rfl
@[simp] theorem State.task_setLaunch (s : State) (l : LaunchId) (x : Launch) (u : TaskId) : (s.setLaunch l x).task u = s.task u := rfl
@[simp] theorem State.queue_setLaunch (s : State) (l : LaunchId) (x : Launch) (j : Nat) : (s.setLaunch l x).queue j = s.queue j := rfl
@[simp] theorem State.task_setQueue (s : State) (i : Nat) (q : Queue) (u : TaskId) : (s.setQueue i q).task u = s.task u := rfl
@[simp] theorem State.launch_setQueue (s : State) (i : Nat) (q : Queue) (l' : LaunchId) : (s.setQueue i q).launch l' = s.launch l' := rfl

end Sys2Proof.Machine
end

