-- ==== Sys2Proof/Laws/Ops.lean ====
section
/-! SUPPORT. Laws of the shared operations: registers and CSRs read after a write, what retirement changes, and what the
issue of a tagged instruction can answer. -/

namespace Sys2Proof.Machine

@[simp] theorem Quad.get_set {α : Type} (q : Quad α) (e e' : Eng) (x : α) : (q.set e x).get e' = if e' = e then x else q.get e' := by
  cases e <;> cases e' <;> rfl

@[simp] theorem Quad.get_const {α : Type} (x : α) (e : Eng) : (Quad.const x).get e = x := by cases e <;> rfl

theorem Eng.num_lt (e : Eng) : e.num < 4 := by cases e <;> decide
theorem Eng.num_inj {e e' : Eng} : e.num = e'.num ↔ e = e' := by cases e <;> cases e' <;> decide

/-! ### Reading memory -/

theorem State.byteAt_congr {s t : State} (hm : t.memory = s.memory) (hd : t.dramGiB = s.dramGiB) : s.sameBytes t := by
  intro a
  simp only [State.byteAt, State.pendingAt, State.dramBytes, State.sectorRead, hm, hd]
  cases h : codedSlab (a / 16) with
  | some x => rfl
  | none =>
    have e : t.sectorBytes (a / 16) = s.sectorBytes (a / 16) := by simp only [State.sectorBytes, h, hm]
    rw [e]; rfl

theorem State.onlyCore_of {s t : State} (h : { t with cores := s.cores } = s) (ho : s.sameOthers t) : s.onlyCore t := by
  refine ⟨h, ho, State.byteAt_congr ?_ ?_⟩
  · rw [← h]
  · rw [← h]

theorem State.onlyCore_setMe (s : State) (c : Core) : s.onlyCore (s.setMe c) := by
  refine State.onlyCore_of rfl fun k hk => ?_
  rw [State.core_setMe, if_neg hk]

/-! ### Scalars and CSRs -/

theorem Core.getS_setS (c : Core) (e e' : Eng) (r q : Reg) (v : Word) :
    (c.setS e r.val v).getS e' q.val = if q = 0 then 0 else if e' = e ∧ q = r then v else c.getS e' q.val := by
  simp only [Core.setS, Core.getS]
  by_cases hq : q = 0
  · subst hq; simp
  · have hq' : q.val ≠ 0 := fun h => hq (Fin.ext h)
    rw [if_neg hq', if_neg hq, if_neg hq']
    have key : 32 * e'.num + q.val = 32 * e.num + r.val ↔ e' = e ∧ q = r := by
      rw [← Eng.num_inj, Fin.ext_iff]
      have := q.isLt; have := r.isLt; omega
    by_cases hr : r.val = 0
    · rw [if_pos hr, if_neg]
      rintro ⟨_, rfl⟩
      exact hq' hr
    · rw [if_neg hr]
      simp only [Sparse.get_put, key]

theorem Core.getC_setC (c : Core) (e e' : Eng) (n k : Nat) (v : Word) (hn : n < 256) (hk : k < 256) :
    (c.setC e n v).getC e' k = if e' = e ∧ k = n then v else c.getC e' k := by
  have key : 256 * e'.num + k = 256 * e.num + n ↔ e' = e ∧ k = n := by rw [← Eng.num_inj]; omega
  simp only [Core.setC, Core.getC, Sparse.get_put, key]

theorem Core.setS_frame (c : Core) (e : Eng) (r : Nat) (v : Word) : { c.setS e r v with scal := c.scal } = c := by
  simp only [Core.setS]; split <;> rfl

/-! ### Retirement of X instructions -/

theorem Core.pass!_movedOn (c : Core) (e : Eng) (n : Nat) : c.movedOn (c.pass! e n) e (c.pc.get e + wOf (32 * n)) n := by
  refine ⟨fun x => ?_, fun x => ?_, rfl⟩ <;> simp only [Core.pass!, Quad.get_set] <;> (split <;> simp_all)

/-- What an X instruction that writes one scalar leaves. -/
theorem State.finishX_didX (s : State) (n : Nat) (d : Reg) (v : Word) :
    s.didX (s.finishX n d v) n (s.me.pc.get s.eng + wOf (32 * n)) d v := by
  have hme : (s.finishX n d v).me = (s.me.setS s.eng d.val v).pass! s.eng n := by
    simp only [State.finishX, State.passX, State.wr, State.me_setMe, State.setMe_eng]
  have hpc : (s.me.setS s.eng d.val v).pc = s.me.pc ∧ (s.me.setS s.eng d.val v).pass = s.me.pass ∧
      (s.me.setS s.eng d.val v).stopped = s.me.stopped := by simp only [Core.setS]; split <;> exact ⟨rfl, rfl, rfl⟩
  refine ⟨?_, fun e r => ?_, ?_, State.onlyCore_of rfl fun k hk => ?_⟩
  · have h := Core.pass!_movedOn (s.me.setS s.eng d.val v) s.eng n
    rw [hme]
    simpa only [Core.movedOn, hpc.1, hpc.2.1, hpc.2.2] using h
  · rw [hme, show ((s.me.setS s.eng d.val v).pass! s.eng n).getS e r.val = (s.me.setS s.eng d.val v).getS e r.val from rfl,
      Core.getS_setS]
  · rw [hme]
    simp only [Core.pass!, Core.setS]; split <;> rfl
  · simp only [State.finishX, State.passX, State.wr, State.core_setMe, State.setMe_cur, if_neg hk]

theorem computes_of {i : Instr} {n : Nat} {d : Reg} {v : State → Word} (h : ∀ s, exec i s = .next (s.finishX n d (v s))) :
    Computes i n d v := fun s => ⟨_, h s, s.finishX_didX n d (v s)⟩

/-! ### The held instruction -/

@[simp] theorem State.hold_cur (s : State) (i : Option Instr) : (s.hold i).cur = s.cur := rfl
@[simp] theorem State.hold_eng (s : State) (i : Option Instr) : (s.hold i).eng = s.eng := rfl
@[simp] theorem State.hold_next (s : State) (i : Option Instr) : (s.hold i).next = s.next := rfl
@[simp] theorem State.hold_turns (s : State) (i : Option Instr) : (s.hold i).turns = s.turns := rfl
@[simp] theorem State.hold_agenda (s : State) (i : Option Instr) : (s.hold i).agenda = s.agenda := rfl
@[simp] theorem State.hold_ccnt (s : State) (i : Option Instr) : (s.hold i).ccnt = s.ccnt := rfl
@[simp] theorem State.hold_due (s : State) (i : Option Instr) : (s.hold i).due = s.due := rfl
@[simp] theorem State.hold_dramGiB (s : State) (i : Option Instr) : (s.hold i).dramGiB = s.dramGiB := rfl
@[simp] theorem State.hold_memory (s : State) (i : Option Instr) : (s.hold i).memory = s.memory := rfl
@[simp] theorem State.hold_parts (s : State) (i : Option Instr) : (s.hold i).parts = s.parts := rfl
@[simp] theorem State.hold_sched (s : State) (i : Option Instr) : (s.hold i).sched = s.sched := rfl
@[simp] theorem State.hold_movers (s : State) (i : Option Instr) : (s.hold i).movers = s.movers := rfl
@[simp] theorem State.hold_edge (s : State) (i : Option Instr) : (s.hold i).edge = s.edge := rfl

theorem State.hold_me (s : State) (i : Option Instr) : (s.hold i).me =
    { s.me with held := s.me.held.set s.eng (i.map fun j => (s.me.pc.get s.eng, j)), wait := s.me.wait.set s.eng .run } := by
  simp only [State.hold, State.me_setMe]

/-- Holding an instruction changes nothing but what the running engine holds, and that it runs. -/
theorem State.hold_frame (s : State) (i : Option Instr) : { (s.hold i).me with held := s.me.held, wait := s.me.wait } = s.me := by
  rw [State.hold_me]

theorem State.onlyCore_hold (s : State) (i : Option Instr) : s.onlyCore (s.hold i) := State.onlyCore_setMe s _

/-- The running engine has its own instruction at hand in its next turn where it waits for memory: it is not fetched again (R32, R34). -/
theorem Core.heldAt_memory (c : Core) (e : Eng) (i : Instr) (hw : c.wait.get e = .memory) (hh : c.held.get e = some (c.pc.get e, i)) :
    c.heldAt e = some i := by
  simp only [Core.heldAt, hw, hh, if_true]

/-! ### Issue -/

theorem issue_eq (e : Eng) (tk : Toks) (s : State) (body : State → Except Stop State) :
    issue e tk s body =
      match ({ s with eng := e } : State).takeTokens s.cur e (popsOf e tk) with
      | none => .next (({ s with eng := e } : State).setWait s.cur e (.pop (maskOf (popsOf e tk))))
      | some u =>
        match body (u.setMe (u.me.hear e)) with
        | .ok v => .next (v.retire e tk)
        | .error (.trap f) => .next (u.takeFault u.cur e f)
        | .error (.wait v) => .next ((v.setMe (v.me.unhear u.me)).setWait v.cur e .memory) := rfl

/-- A tagged instruction whose body succeeds retires. -/
theorem issue_retires {e : Eng} {tk : Toks} {s u v : State} {body : State → Except Stop State}
    (h : s.issuing e tk = some u) (hb : body u = .ok v) : issue e tk s body = .next (v.retire e tk) := by
  rw [issue_eq]
  simp only [State.issuing, Option.map_eq_some_iff] at h
  obtain ⟨w, hw, rfl⟩ := h
  rw [hw]
  simp only [hb]

/-- A tagged instruction that misses a token waits. -/
theorem issue_waits {e : Eng} {tk : Toks} {s : State} (body : State → Except Stop State) (h : s.issuing e tk = none) :
    issue e tk s body = .next (({ s with eng := e } : State).setWait s.cur e (.pop (maskOf (popsOf e tk)))) := by
  rw [issue_eq]
  simp only [State.issuing, Option.map_eq_none_iff] at h
  rw [h]

/-- A tagged instruction always answers a next state. -/
theorem issue_next (e : Eng) (tk : Toks) (s : State) (body : State → Except Stop State) : ∃ t, issue e tk s body = .next t := by
  rw [issue_eq]
  split
  · exact ⟨_, rfl⟩
  · split <;> exact ⟨_, rfl⟩

end Sys2Proof.Machine
end

