-- ==== Sys2Proof/Laws/PerInstr.lean ====
section
/-! SUPPORT. Per instruction: its words have 32 bits, its first word announces how many there are, and a second word is a
continuation. -/

namespace Sys2Proof.Laws

/-- The words of an instruction: a first word that announces the others, and continuation words (R26, R27, R30). -/
def WordsFit.Fits (l : List Nat) : Prop :=
  ∀ w ws, l = w :: ws → w < 2 ^ 32 ∧ wordCount w = 1 + ws.length ∧ ∀ p ∈ ws, p < 2 ^ 32 ∧ p / 2 ^ 25 = 6

/-- What is said of every instruction; a device event has no words. -/
def WordsFit.Statement (i : Instr) : Prop := WordsFit.Fits (encode i)

theorem bitN_le (b : Bool) : bitN b ≤ 1 := by cases b <;> decide

theorem toks_bits (t : Toks) : ∃ n, n < 16 ∧ t.bits = n * 268435456 := by
  have := bitN_le t.wb
  have := bitN_le t.wa
  have := bitN_le t.sb
  have := bitN_le t.sa
  exact ⟨bitN t.wb * 8 + bitN t.wa * 4 + bitN t.sb * 2 + bitN t.sa, by omega, by rw [Toks.bits]; omega⟩

theorem fits_xShort {op low : Nat} (ho : op < 64) (hl : low < 2 ^ 18) : WordsFit.Fits (xShort op low) := by
  rintro w ws ⟨⟩
  simp only [word0, wordCount, List.length_nil, List.not_mem_nil, false_implies, implies_true, and_true]
  omega

theorem fits_pair {tk : Toks} {tag op low p : Nat} (ht : tag < 8) (ho : op < 64) (hl : low < 2 ^ 18) (hp : p < 2 ^ 25) :
    WordsFit.Fits [word0 tk.bits tag 1 op low, word1 p] := by
  obtain ⟨n, hn, hb⟩ := toks_bits tk
  rintro w ws ⟨⟩
  simp only [hb, word0, word1, wordCount, List.length_singleton, List.mem_singleton, forall_eq]
  omega

theorem fits_xLong {op low p : Nat} (ho : op < 64) (hl : low < 2 ^ 18) (hp : p < 2 ^ 25) : WordsFit.Fits (xLong op low p) := by
  rintro w ws ⟨⟩
  simp only [word0, word1, wordCount, List.length_singleton, List.mem_singleton, forall_eq]
  omega

theorem lowR_lt (d a b : Reg) {sub : Nat} (h : sub < 8) : lowR d.val a.val b.val sub < 2 ^ 18 := by
  rw [lowR]; omega

theorem lowI_lt (d a : Reg) {n : Nat} (h : n < 256) : lowI d.val a.val n < 2 ^ 18 := by
  rw [lowI]; omega

theorem code_lt (t : Ty) : t.code < 16 := by cases t <;> decide
theorem cond_code_lt (c : Cond) : c.code < 8 := by cases c <;> decide
theorem wcode_lt (c : WCode) : c.code < 8 := by cases c <;> decide

theorem fits_vw (x : VW) {tag op : Nat} (ht : tag < 8) (ho : op < 64) : WordsFit.Fits (x.words tag op) := by
  refine fits_pair ht ho (lowR_lt _ _ _ x.sub.isLt) ?_
  have := bitN_le x.z
  have := bitN_le x.sat
  have := code_lt x.ty
  rw [VW.payload]
  omega

theorem fits_mw (x : MW) {tag op : Nat} (ht : tag < 8) (ho : op < 64) : WordsFit.Fits (x.words tag op) := by
  refine fits_pair ht ho (lowR_lt _ _ _ x.sub.isLt) ?_
  rw [MW.payload]
  omega

theorem fits_ms (x : MS) {tag op : Nat} (ht : tag < 8) (ho : op < 64) : WordsFit.Fits (x.words tag op) := by
  refine fits_pair ht ho (lowI_lt _ _ x.wm1.isLt) ?_
  rw [MS.payload]
  omega

theorem fits_nil : WordsFit.Fits [] := nofun

/-! ### One lemma for each constructor -/

theorem WordsFit.add : ∀ a0 a1 a2, WordsFit.Statement (.add a0 a1 a2) := fun d a b => fits_xShort (by decide) (lowR_lt _ _ _ (by decide))
theorem WordsFit.sub : ∀ a0 a1 a2, WordsFit.Statement (.sub a0 a1 a2) := fun d a b => fits_xShort (by decide) (lowR_lt _ _ _ (by decide))
theorem WordsFit.mul : ∀ a0 a1 a2, WordsFit.Statement (.mul a0 a1 a2) := fun d a b => fits_xShort (by decide) (lowR_lt _ _ _ (by decide))
theorem WordsFit.mulh : ∀ a0 a1 a2, WordsFit.Statement (.mulh a0 a1 a2) := fun d a b => fits_xShort (by decide) (lowR_lt _ _ _ (by decide))
theorem WordsFit.mulhU : ∀ a0 a1 a2, WordsFit.Statement (.mulhU a0 a1 a2) := fun d a b => fits_xShort (by decide) (lowR_lt _ _ _ (by decide))
theorem WordsFit.div : ∀ a0 a1 a2, WordsFit.Statement (.div a0 a1 a2) := fun d a b => fits_xShort (by decide) (lowR_lt _ _ _ (by decide))
theorem WordsFit.divU : ∀ a0 a1 a2, WordsFit.Statement (.divU a0 a1 a2) := fun d a b => fits_xShort (by decide) (lowR_lt _ _ _ (by decide))
theorem WordsFit.rem : ∀ a0 a1 a2, WordsFit.Statement (.rem a0 a1 a2) := fun d a b => fits_xShort (by decide) (lowR_lt _ _ _ (by decide))
theorem WordsFit.remU : ∀ a0 a1 a2, WordsFit.Statement (.remU a0 a1 a2) := fun d a b => fits_xShort (by decide) (lowR_lt _ _ _ (by decide))
theorem WordsFit.and : ∀ a0 a1 a2, WordsFit.Statement (.and a0 a1 a2) := fun d a b => fits_xShort (by decide) (lowR_lt _ _ _ (by decide))
theorem WordsFit.or : ∀ a0 a1 a2, WordsFit.Statement (.or a0 a1 a2) := fun d a b => fits_xShort (by decide) (lowR_lt _ _ _ (by decide))
theorem WordsFit.xor : ∀ a0 a1 a2, WordsFit.Statement (.xor a0 a1 a2) := fun d a b => fits_xShort (by decide) (lowR_lt _ _ _ (by decide))
theorem WordsFit.andn : ∀ a0 a1 a2, WordsFit.Statement (.andn a0 a1 a2) := fun d a b => fits_xShort (by decide) (lowR_lt _ _ _ (by decide))
theorem WordsFit.shl : ∀ a0 a1 a2, WordsFit.Statement (.shl a0 a1 a2) := fun d a b => fits_xShort (by decide) (lowR_lt _ _ _ (by decide))
theorem WordsFit.shr : ∀ a0 a1 a2, WordsFit.Statement (.shr a0 a1 a2) := fun d a b => fits_xShort (by decide) (lowR_lt _ _ _ (by decide))
theorem WordsFit.shra : ∀ a0 a1 a2, WordsFit.Statement (.shra a0 a1 a2) := fun d a b => fits_xShort (by decide) (lowR_lt _ _ _ (by decide))
theorem WordsFit.rot : ∀ a0 a1 a2, WordsFit.Statement (.rot a0 a1 a2) := fun d a b => fits_xShort (by decide) (lowR_lt _ _ _ (by decide))
theorem WordsFit.min : ∀ a0 a1 a2, WordsFit.Statement (.min a0 a1 a2) := fun d a b => fits_xShort (by decide) (lowR_lt _ _ _ (by decide))
theorem WordsFit.minU : ∀ a0 a1 a2, WordsFit.Statement (.minU a0 a1 a2) := fun d a b => fits_xShort (by decide) (lowR_lt _ _ _ (by decide))
theorem WordsFit.max : ∀ a0 a1 a2, WordsFit.Statement (.max a0 a1 a2) := fun d a b => fits_xShort (by decide) (lowR_lt _ _ _ (by decide))
theorem WordsFit.maxU : ∀ a0 a1 a2, WordsFit.Statement (.maxU a0 a1 a2) := fun d a b => fits_xShort (by decide) (lowR_lt _ _ _ (by decide))
theorem WordsFit.clz : ∀ a0 a1, WordsFit.Statement (.clz a0 a1) := fun d a => fits_xShort (by decide) (lowI_lt _ _ (by decide))
theorem WordsFit.ctz : ∀ a0 a1, WordsFit.Statement (.ctz a0 a1) := fun d a => fits_xShort (by decide) (lowI_lt _ _ (by decide))
theorem WordsFit.popc : ∀ a0 a1, WordsFit.Statement (.popc a0 a1) := fun d a => fits_xShort (by decide) (lowI_lt _ _ (by decide))
theorem WordsFit.brev : ∀ a0 a1, WordsFit.Statement (.brev a0 a1) := fun d a => fits_xShort (by decide) (lowI_lt _ _ (by decide))
theorem WordsFit.sext : ∀ a0 a1 a2, WordsFit.Statement (.sext a0 a1 a2) := fun d a n => fits_xShort (by decide) (lowI_lt _ _ (by omega))
theorem WordsFit.zext : ∀ a0 a1 a2, WordsFit.Statement (.zext a0 a1 a2) := fun d a n => fits_xShort (by decide) (lowI_lt _ _ (by omega))
theorem WordsFit.cmp : ∀ a0 a1 a2 a3, WordsFit.Statement (.cmp a0 a1 a2 a3) := fun cc d a b => fits_xShort (by decide) (lowR_lt _ _ _ (cond_code_lt _))
theorem WordsFit.sel : ∀ a0 a1 a2, WordsFit.Statement (.sel a0 a1 a2) := fun d a b => fits_xShort (by decide) (lowR_lt _ _ _ (by decide))
theorem WordsFit.clmul : ∀ a0 a1 a2, WordsFit.Statement (.clmul a0 a1 a2) := fun d a b => fits_xShort (by decide) (lowR_lt _ _ _ (by decide))
theorem WordsFit.clmulHi : ∀ a0 a1 a2, WordsFit.Statement (.clmulHi a0 a1 a2) := fun d a b => fits_xShort (by decide) (lowR_lt _ _ _ (by decide))
theorem WordsFit.addi : ∀ a0 a1 a2, WordsFit.Statement (.addi a0 a1 a2) := fun d a i => fits_xShort (by decide) (lowI_lt _ _ (BitVec.isLt _))
theorem WordsFit.andi : ∀ a0 a1 a2, WordsFit.Statement (.andi a0 a1 a2) := fun d a i => fits_xShort (by decide) (lowI_lt _ _ (BitVec.isLt _))
theorem WordsFit.ori : ∀ a0 a1 a2, WordsFit.Statement (.ori a0 a1 a2) := fun d a i => fits_xShort (by decide) (lowI_lt _ _ (BitVec.isLt _))
theorem WordsFit.xori : ∀ a0 a1 a2, WordsFit.Statement (.xori a0 a1 a2) := fun d a i => fits_xShort (by decide) (lowI_lt _ _ (BitVec.isLt _))
theorem WordsFit.shli : ∀ a0 a1 a2, WordsFit.Statement (.shli a0 a1 a2) := fun d a n => fits_xShort (by decide) (lowI_lt _ _ (by omega))
theorem WordsFit.shri : ∀ a0 a1 a2, WordsFit.Statement (.shri a0 a1 a2) := fun d a n => fits_xShort (by decide) (lowI_lt _ _ (by omega))
theorem WordsFit.shrai : ∀ a0 a1 a2, WordsFit.Statement (.shrai a0 a1 a2) := fun d a n => fits_xShort (by decide) (lowI_lt _ _ (by omega))
theorem WordsFit.padd : ∀ a0 a1 a2 a3, WordsFit.Statement (.padd a0 a1 a2 a3) := fun wc d a b => fits_xShort (by decide) (lowR_lt _ _ _ (wcode_lt _))
theorem WordsFit.pdiff : ∀ a0 a1 a2 a3, WordsFit.Statement (.pdiff a0 a1 a2 a3) := fun wc d a b => fits_xShort (by decide) (lowR_lt _ _ _ (wcode_lt _))
theorem WordsFit.paln : ∀ a0 a1 a2, WordsFit.Statement (.paln a0 a1 a2) := fun d a n => fits_xShort (by decide) (lowI_lt _ _ (by omega))
theorem WordsFit.palnUp : ∀ a0 a1 a2, WordsFit.Statement (.palnUp a0 a1 a2) := fun d a n => fits_xShort (by decide) (lowI_lt _ _ (by omega))
theorem WordsFit.btob : ∀ a0 a1, WordsFit.Statement (.btob a0 a1) := fun d a => fits_xShort (by decide) (lowI_lt _ _ (by decide))
theorem WordsFit.btobUp : ∀ a0 a1, WordsFit.Statement (.btobUp a0 a1) := fun d a => fits_xShort (by decide) (lowI_lt _ _ (by decide))
theorem WordsFit.byte : ∀ a0 a1 a2, WordsFit.Statement (.byte a0 a1 a2) := fun d a b => fits_xShort (by decide) (lowR_lt _ _ _ (by decide))
theorem WordsFit.pchk : ∀ a0 a1 a2 a3, WordsFit.Statement (.pchk a0 a1 a2 a3) := fun wc d a b => fits_xShort (by decide) (lowR_lt _ _ _ (wcode_lt _))
theorem WordsFit.csrr : ∀ a0 a1, WordsFit.Statement (.csrr a0 a1) := fun r n => fits_xShort (by decide) (by omega)
theorem WordsFit.csrw : ∀ a0 a1, WordsFit.Statement (.csrw a0 a1) := fun r n => fits_xShort (by decide) (by omega)
theorem WordsFit.csrs : ∀ a0 a1, WordsFit.Statement (.csrs a0 a1) := fun r n => fits_xShort (by decide) (by omega)
theorem WordsFit.csrc : ∀ a0 a1, WordsFit.Statement (.csrc a0 a1) := fun r n => fits_xShort (by decide) (by omega)
theorem WordsFit.ret : ∀ a0, WordsFit.Statement (.ret a0) := fun n => fits_xShort (by decide) (by omega)
theorem WordsFit.hop : WordsFit.Statement .hop := fits_xShort (by decide) (by decide)
theorem WordsFit.step : WordsFit.Statement .step := fits_xShort (by decide) (by decide)
theorem WordsFit.endTask : WordsFit.Statement .endTask := fits_xShort (by decide) (by decide)
theorem WordsFit.trap : ∀ a0, WordsFit.Statement (.trap a0) := fun n => fits_xShort (by decide) (by omega)
theorem WordsFit.nop : WordsFit.Statement .nop := fits_xShort (by decide) (by decide)
theorem WordsFit.sysc : ∀ a0, WordsFit.Statement (.sysc a0) := fun n => fits_xShort (by decide) (by omega)
theorem WordsFit.eret : WordsFit.Statement .eret := fits_xShort (by decide) (by decide)
theorem WordsFit.fltr : ∀ a0 a1, WordsFit.Statement (.fltr a0 a1) := fun d k => fits_xShort (by decide) (by rw [lowI]; omega)
theorem WordsFit.fltrClr : ∀ a0 a1, WordsFit.Statement (.fltrClr a0 a1) := fun d k => fits_xShort (by decide) (by rw [lowI]; omega)
theorem WordsFit.halt : WordsFit.Statement .halt := fits_xShort (by decide) (by decide)
theorem WordsFit.li : ∀ a0 a1, WordsFit.Statement (.li a0 a1) := fun d i => fits_xLong (by decide) (by rw [lowI]; omega) (BitVec.isLt _)
theorem WordsFit.lis : ∀ a0 a1, WordsFit.Statement (.lis a0 a1) := fun d i => fits_xLong (by decide) (by rw [lowI]; omega) (BitVec.isLt _)
theorem WordsFit.br : ∀ a0, WordsFit.Statement (.br a0) := fun i => fits_xLong (by decide) (by decide) (BitVec.isLt _)
theorem WordsFit.brc : ∀ a0 a1 a2 a3, WordsFit.Statement (.brc a0 a1 a2 a3) := fun cc d a i => fits_xLong (by decide) (lowI_lt _ _ (Nat.lt_trans (cond_code_lt _) (by decide))) (BitVec.isLt _)
theorem WordsFit.call : ∀ a0 a1, WordsFit.Statement (.call a0 a1) := fun d i => fits_xLong (by decide) (by rw [lowI]; omega) (BitVec.isLt _)
theorem WordsFit.loop : ∀ a0 a1, WordsFit.Statement (.loop a0 a1) := fun d i => fits_xLong (by decide) (by rw [lowI]; omega) (BitVec.isLt _)
theorem WordsFit.loopk : ∀ a0, WordsFit.Statement (.loopk a0) := fun i => fits_xLong (by decide) (by decide) (BitVec.isLt _)
theorem WordsFit.ctxsv : ∀ a0 a1 a2, WordsFit.Statement (.ctxsv a0 a1 a2) := fun d a b => fits_xLong (by decide) (lowI_lt _ _ (by omega)) (by decide)
theorem WordsFit.ctxrs : ∀ a0 a1 a2, WordsFit.Statement (.ctxrs a0 a1 a2) := fun d a b => fits_xLong (by decide) (lowI_lt _ _ (by omega)) (by decide)
theorem WordsFit.xlinv : ∀ a0 a1 a2, WordsFit.Statement (.xlinv a0 a1 a2) := fun d a b => fits_xLong (by decide) (lowI_lt _ _ (by omega)) (by decide)
theorem WordsFit.bindq : ∀ a0 a1, WordsFit.Statement (.bindq a0 a1) := fun d a => fits_xLong (by decide) (lowI_lt _ _ (by decide)) (by decide)
theorem WordsFit.tierq : ∀ a0 a1, WordsFit.Statement (.tierq a0 a1) := fun d a => fits_xLong (by decide) (lowI_lt _ _ (by decide)) (by decide)
theorem WordsFit.fld : ∀ a0, WordsFit.Statement (.fld a0) := fun x => fits_mw x (by decide) (by decide)
theorem WordsFit.fldv : ∀ a0, WordsFit.Statement (.fldv a0) := fun x => fits_mw x (by decide) (by decide)
theorem WordsFit.fldk : ∀ a0, WordsFit.Statement (.fldk a0) := fun x => fits_mw x (by decide) (by decide)
theorem WordsFit.lds : ∀ a0, WordsFit.Statement (.lds a0) := fun x => fits_ms x (by decide) (by decide)
theorem WordsFit.fgath : ∀ a0, WordsFit.Statement (.fgath a0) := fun x => fits_mw x (by decide) (by decide)
theorem WordsFit.wset : ∀ a0, WordsFit.Statement (.wset a0) := fun x => fits_mw x (by decide) (by decide)
theorem WordsFit.wadv : ∀ a0, WordsFit.Statement (.wadv a0) := fun x => fits_mw x (by decide) (by decide)
theorem WordsFit.pref : ∀ a0, WordsFit.Statement (.pref a0) := fun x => fits_mw x (by decide) (by decide)
theorem WordsFit.prefArr : ∀ a0, WordsFit.Statement (.prefArr a0) := fun x => fits_mw x (by decide) (by decide)
theorem WordsFit.gset : ∀ a0, WordsFit.Statement (.gset a0) := fun x => fits_mw x (by decide) (by decide)
theorem WordsFit.xcpy : ∀ a0, WordsFit.Statement (.xcpy a0) := fun x => fits_mw x (by decide) (by decide)
theorem WordsFit.fldw : ∀ a0, WordsFit.Statement (.fldw a0) := fun x => fits_mw x (by decide) (by decide)
theorem WordsFit.bwait : ∀ a0, WordsFit.Statement (.bwait a0) := fun x => fits_mw x (by decide) (by decide)
theorem WordsFit.fenceF : ∀ a0, WordsFit.Statement (.fenceF a0) := fun x => fits_mw x (by decide) (by decide)
theorem WordsFit.attp : ∀ a0, WordsFit.Statement (.attp a0) := fun x => fits_mw x (by decide) (by decide)
theorem WordsFit.attl : ∀ a0, WordsFit.Statement (.attl a0) := fun x => fits_mw x (by decide) (by decide)
theorem WordsFit.strSeek : ∀ a0, WordsFit.Statement (.strSeek a0) := fun x => fits_mw x (by decide) (by decide)
theorem WordsFit.chnNxt : ∀ a0, WordsFit.Statement (.chnNxt a0) := fun x => fits_mw x (by decide) (by decide)
theorem WordsFit.mma : ∀ a0, WordsFit.Statement (.mma a0) := fun x => fits_vw x (by decide) (by decide)
theorem WordsFit.mmai : ∀ a0, WordsFit.Statement (.mmai a0) := fun x => fits_vw x (by decide) (by decide)
theorem WordsFit.mmv : ∀ a0, WordsFit.Statement (.mmv a0) := fun x => fits_vw x (by decide) (by decide)
theorem WordsFit.mz : ∀ a0, WordsFit.Statement (.mz a0) := fun x => fits_vw x (by decide) (by decide)
theorem WordsFit.macc : ∀ a0, WordsFit.Statement (.macc a0) := fun x => fits_vw x (by decide) (by decide)
theorem WordsFit.mwcp : ∀ a0, WordsFit.Statement (.mwcp a0) := fun x => fits_vw x (by decide) (by decide)
theorem WordsFit.mwclr : ∀ a0, WordsFit.Statement (.mwclr a0) := fun x => fits_vw x (by decide) (by decide)
theorem WordsFit.vadd : ∀ a0, WordsFit.Statement (.vadd a0) := fun x => fits_vw x (by decide) (by decide)
theorem WordsFit.vsub : ∀ a0, WordsFit.Statement (.vsub a0) := fun x => fits_vw x (by decide) (by decide)
theorem WordsFit.vmul : ∀ a0, WordsFit.Statement (.vmul a0) := fun x => fits_vw x (by decide) (by decide)
theorem WordsFit.vfma : ∀ a0, WordsFit.Statement (.vfma a0) := fun x => fits_vw x (by decide) (by decide)
theorem WordsFit.vmin : ∀ a0, WordsFit.Statement (.vmin a0) := fun x => fits_vw x (by decide) (by decide)
theorem WordsFit.vmax : ∀ a0, WordsFit.Statement (.vmax a0) := fun x => fits_vw x (by decide) (by decide)
theorem WordsFit.vabs : ∀ a0, WordsFit.Statement (.vabs a0) := fun x => fits_vw x (by decide) (by decide)
theorem WordsFit.vneg : ∀ a0, WordsFit.Statement (.vneg a0) := fun x => fits_vw x (by decide) (by decide)
theorem WordsFit.vrcp : ∀ a0, WordsFit.Statement (.vrcp a0) := fun x => fits_vw x (by decide) (by decide)
theorem WordsFit.vrsq : ∀ a0, WordsFit.Statement (.vrsq a0) := fun x => fits_vw x (by decide) (by decide)
theorem WordsFit.vrefr : ∀ a0, WordsFit.Statement (.vrefr a0) := fun x => fits_vw x (by decide) (by decide)
theorem WordsFit.vrefq : ∀ a0, WordsFit.Statement (.vrefq a0) := fun x => fits_vw x (by decide) (by decide)
theorem WordsFit.vexp2 : ∀ a0, WordsFit.Statement (.vexp2 a0) := fun x => fits_vw x (by decide) (by decide)
theorem WordsFit.vlog2 : ∀ a0, WordsFit.Statement (.vlog2 a0) := fun x => fits_vw x (by decide) (by decide)
theorem WordsFit.vtanh : ∀ a0, WordsFit.Statement (.vtanh a0) := fun x => fits_vw x (by decide) (by decide)
theorem WordsFit.viadd : ∀ a0, WordsFit.Statement (.viadd a0) := fun x => fits_vw x (by decide) (by decide)
theorem WordsFit.visub : ∀ a0, WordsFit.Statement (.visub a0) := fun x => fits_vw x (by decide) (by decide)
theorem WordsFit.vimul : ∀ a0, WordsFit.Statement (.vimul a0) := fun x => fits_vw x (by decide) (by decide)
theorem WordsFit.vand : ∀ a0, WordsFit.Statement (.vand a0) := fun x => fits_vw x (by decide) (by decide)
theorem WordsFit.vor : ∀ a0, WordsFit.Statement (.vor a0) := fun x => fits_vw x (by decide) (by decide)
theorem WordsFit.vxor : ∀ a0, WordsFit.Statement (.vxor a0) := fun x => fits_vw x (by decide) (by decide)
theorem WordsFit.vshl : ∀ a0, WordsFit.Statement (.vshl a0) := fun x => fits_vw x (by decide) (by decide)
theorem WordsFit.vshr : ∀ a0, WordsFit.Statement (.vshr a0) := fun x => fits_vw x (by decide) (by decide)
theorem WordsFit.vshra : ∀ a0, WordsFit.Statement (.vshra a0) := fun x => fits_vw x (by decide) (by decide)
theorem WordsFit.vclmul : ∀ a0, WordsFit.Statement (.vclmul a0) := fun x => fits_vw x (by decide) (by decide)
theorem WordsFit.vcmp : ∀ a0, WordsFit.Statement (.vcmp a0) := fun x => fits_vw x (by decide) (by decide)
theorem WordsFit.vselp : ∀ a0, WordsFit.Statement (.vselp a0) := fun x => fits_vw x (by decide) (by decide)
theorem WordsFit.vcvt : ∀ a0, WordsFit.Statement (.vcvt a0) := fun x => fits_vw x (by decide) (by decide)
theorem WordsFit.vqnt : ∀ a0, WordsFit.Statement (.vqnt a0) := fun x => fits_vw x (by decide) (by decide)
theorem WordsFit.vhad : ∀ a0, WordsFit.Statement (.vhad a0) := fun x => fits_vw x (by decide) (by decide)
theorem WordsFit.vrotr : ∀ a0, WordsFit.Statement (.vrotr a0) := fun x => fits_vw x (by decide) (by decide)
theorem WordsFit.vrotc : ∀ a0, WordsFit.Statement (.vrotc a0) := fun x => fits_vw x (by decide) (by decide)
theorem WordsFit.vbcr : ∀ a0, WordsFit.Statement (.vbcr a0) := fun x => fits_vw x (by decide) (by decide)
theorem WordsFit.vbcc : ∀ a0, WordsFit.Statement (.vbcc a0) := fun x => fits_vw x (by decide) (by decide)
theorem WordsFit.vredr : ∀ a0, WordsFit.Statement (.vredr a0) := fun x => fits_vw x (by decide) (by decide)
theorem WordsFit.vredc : ∀ a0, WordsFit.Statement (.vredc a0) := fun x => fits_vw x (by decide) (by decide)
theorem WordsFit.vscnr : ∀ a0, WordsFit.Statement (.vscnr a0) := fun x => fits_vw x (by decide) (by decide)
theorem WordsFit.vscnc : ∀ a0, WordsFit.Statement (.vscnc a0) := fun x => fits_vw x (by decide) (by decide)
theorem WordsFit.vtrn : ∀ a0, WordsFit.Statement (.vtrn a0) := fun x => fits_vw x (by decide) (by decide)
theorem WordsFit.vcomp : ∀ a0, WordsFit.Statement (.vcomp a0) := fun x => fits_vw x (by decide) (by decide)
theorem WordsFit.vtopk : ∀ a0, WordsFit.Statement (.vtopk a0) := fun x => fits_vw x (by decide) (by decide)
theorem WordsFit.viota : ∀ a0, WordsFit.Statement (.viota a0) := fun x => fits_vw x (by decide) (by decide)
theorem WordsFit.vmov : ∀ a0, WordsFit.Statement (.vmov a0) := fun x => fits_vw x (by decide) (by decide)
theorem WordsFit.vmovz : ∀ a0, WordsFit.Statement (.vmovz a0) := fun x => fits_vw x (by decide) (by decide)
theorem WordsFit.vmovs : ∀ a0, WordsFit.Statement (.vmovs a0) := fun x => fits_vw x (by decide) (by decide)
theorem WordsFit.vbcs : ∀ a0, WordsFit.Statement (.vbcs a0) := fun x => fits_vw x (by decide) (by decide)
theorem WordsFit.vldb : ∀ a0, WordsFit.Statement (.vldb a0) := fun x => fits_vw x (by decide) (by decide)
theorem WordsFit.vstb : ∀ a0, WordsFit.Statement (.vstb a0) := fun x => fits_vw x (by decide) (by decide)
theorem WordsFit.pand : ∀ a0, WordsFit.Statement (.pand a0) := fun x => fits_vw x (by decide) (by decide)
theorem WordsFit.por : ∀ a0, WordsFit.Statement (.por a0) := fun x => fits_vw x (by decide) (by decide)
theorem WordsFit.pxor : ∀ a0, WordsFit.Statement (.pxor a0) := fun x => fits_vw x (by decide) (by decide)
theorem WordsFit.pnot : ∀ a0, WordsFit.Statement (.pnot a0) := fun x => fits_vw x (by decide) (by decide)
theorem WordsFit.pset : ∀ a0, WordsFit.Statement (.pset a0) := fun x => fits_vw x (by decide) (by decide)
theorem WordsFit.pcnt : ∀ a0, WordsFit.Statement (.pcnt a0) := fun x => fits_vw x (by decide) (by decide)
theorem WordsFit.pfrst : ∀ a0, WordsFit.Statement (.pfrst a0) := fun x => fits_vw x (by decide) (by decide)
theorem WordsFit.ppack : ∀ a0, WordsFit.Statement (.ppack a0) := fun x => fits_vw x (by decide) (by decide)
theorem WordsFit.punpk : ∀ a0, WordsFit.Statement (.punpk a0) := fun x => fits_vw x (by decide) (by decide)
theorem WordsFit.atmrg : ∀ a0, WordsFit.Statement (.atmrg a0) := fun x => fits_vw x (by decide) (by decide)
theorem WordsFit.fst : ∀ a0, WordsFit.Statement (.fst a0) := fun x => fits_mw x (by decide) (by decide)
theorem WordsFit.fstv : ∀ a0, WordsFit.Statement (.fstv a0) := fun x => fits_mw x (by decide) (by decide)
theorem WordsFit.sts : ∀ a0, WordsFit.Statement (.sts a0) := fun x => fits_ms x (by decide) (by decide)
theorem WordsFit.fscat : ∀ a0, WordsFit.Statement (.fscat a0) := fun x => fits_mw x (by decide) (by decide)
theorem WordsFit.atom : ∀ a0, WordsFit.Statement (.atom a0) := fun x => fits_mw x (by decide) (by decide)
theorem WordsFit.red : ∀ a0, WordsFit.Statement (.red a0) := fun x => fits_mw x (by decide) (by decide)
theorem WordsFit.copy : ∀ a0, WordsFit.Statement (.copy a0) := fun x => fits_mw x (by decide) (by decide)
theorem WordsFit.publ : ∀ a0, WordsFit.Statement (.publ a0) := fun x => fits_mw x (by decide) (by decide)
theorem WordsFit.shad : ∀ a0, WordsFit.Statement (.shad a0) := fun x => fits_mw x (by decide) (by decide)
theorem WordsFit.fenceW : ∀ a0, WordsFit.Statement (.fenceW a0) := fun x => fits_mw x (by decide) (by decide)
theorem WordsFit.bini : ∀ a0, WordsFit.Statement (.bini a0) := fun x => fits_mw x (by decide) (by decide)
theorem WordsFit.barr : ∀ a0, WordsFit.Statement (.barr a0) := fun x => fits_mw x (by decide) (by decide)
theorem WordsFit.mgrp : ∀ a0, WordsFit.Statement (.mgrp a0) := fun x => fits_mw x (by decide) (by decide)
theorem WordsFit.mrow : ∀ a0, WordsFit.Statement (.mrow a0) := fun x => fits_mw x (by decide) (by decide)
theorem WordsFit.mcmt : ∀ a0, WordsFit.Statement (.mcmt a0) := fun x => fits_mw x (by decide) (by decide)
theorem WordsFit.invl : ∀ a0, WordsFit.Statement (.invl a0) := fun x => fits_mw x (by decide) (by decide)
theorem WordsFit.attf : ∀ a0, WordsFit.Statement (.attf a0) := fun x => fits_mw x (by decide) (by decide)
theorem WordsFit.strDep : ∀ a0, WordsFit.Statement (.strDep a0) := fun x => fits_mw x (by decide) (by decide)
theorem WordsFit.strPin : ∀ a0, WordsFit.Statement (.strPin a0) := fun x => fits_mw x (by decide) (by decide)
theorem WordsFit.strRel : ∀ a0, WordsFit.Statement (.strRel a0) := fun x => fits_mw x (by decide) (by decide)
theorem WordsFit.strDrop : ∀ a0, WordsFit.Statement (.strDrop a0) := fun x => fits_mw x (by decide) (by decide)
theorem WordsFit.chnBeg : ∀ a0, WordsFit.Statement (.chnBeg a0) := fun x => fits_mw x (by decide) (by decide)
theorem WordsFit.chnEnd : ∀ a0, WordsFit.Statement (.chnEnd a0) := fun x => fits_mw x (by decide) (by decide)
theorem WordsFit.crmProm : ∀ a0, WordsFit.Statement (.crmProm a0) := fun x => fits_mw x (by decide) (by decide)
theorem WordsFit.crmDem : ∀ a0, WordsFit.Statement (.crmDem a0) := fun x => fits_mw x (by decide) (by decide)
theorem WordsFit.plcApp : ∀ a0, WordsFit.Statement (.plcApp a0) := fun x => fits_mw x (by decide) (by decide)
theorem WordsFit.plcUpd : ∀ a0, WordsFit.Statement (.plcUpd a0) := fun x => fits_mw x (by decide) (by decide)
theorem WordsFit.skipWord : ∀ a0, WordsFit.Statement (.skipWord a0) := fun _ => fits_nil
theorem WordsFit.illegalInstruction : ∀ a0 a1, WordsFit.Statement (.illegalInstruction a0 a1) := fun _ _ => fits_nil
theorem WordsFit.tokenPop : ∀ a0 a1 a2, WordsFit.Statement (.tokenPop a0 a1 a2) := fun _ _ _ => fits_nil
theorem WordsFit.tokenPush : ∀ a0, WordsFit.Statement (.tokenPush a0) := fun _ => fits_nil
theorem WordsFit.tokenDeadlockFault : WordsFit.Statement .tokenDeadlockFault := fits_nil
theorem WordsFit.handOverCopyDone : ∀ a0 a1, WordsFit.Statement (.handOverCopyDone a0 a1) := fun _ _ => fits_nil
theorem WordsFit.slabMove : ∀ a0 a1 a2, WordsFit.Statement (.slabMove a0 a1 a2) := fun _ _ _ => fits_nil
theorem WordsFit.slabMoveRetry : ∀ a0 a1 a2, WordsFit.Statement (.slabMoveRetry a0 a1 a2) := fun _ _ _ => fits_nil
theorem WordsFit.partsRequestReturn : ∀ a0 a1, WordsFit.Statement (.partsRequestReturn a0 a1) := fun _ _ => fits_nil
theorem WordsFit.lowerTierDeadline : ∀ a0, WordsFit.Statement (.lowerTierDeadline a0) := fun _ => fits_nil
theorem WordsFit.append : ∀ a0 a1 a2, WordsFit.Statement (.append a0 a1 a2) := fun _ _ _ => fits_nil
theorem WordsFit.schedulerIssue : WordsFit.Statement .schedulerIssue := fits_nil
theorem WordsFit.periodBoundary : WordsFit.Statement .periodBoundary := fits_nil
theorem WordsFit.communicationStep : ∀ a0, WordsFit.Statement (.communicationStep a0) := fun _ => fits_nil
theorem WordsFit.bteCommand : ∀ a0, WordsFit.Statement (.bteCommand a0) := fun _ => fits_nil
theorem WordsFit.launchFinish : ∀ a0, WordsFit.Statement (.launchFinish a0) := fun _ => fits_nil
theorem WordsFit.watchdogFault : ∀ a0, WordsFit.Statement (.watchdogFault a0) := fun _ => fits_nil
theorem WordsFit.preemptionStrike : ∀ a0, WordsFit.Statement (.preemptionStrike a0) := fun _ => fits_nil
theorem WordsFit.preemptionDeadline : ∀ a0, WordsFit.Statement (.preemptionDeadline a0) := fun _ => fits_nil
theorem WordsFit.promotion : WordsFit.Statement .promotion := fits_nil
theorem WordsFit.promotionPublish : WordsFit.Statement .promotionPublish := fits_nil
theorem WordsFit.demotion : WordsFit.Statement .demotion := fits_nil
theorem WordsFit.pageWalk : ∀ a0 a1, WordsFit.Statement (.pageWalk a0 a1) := fun _ _ => fits_nil
theorem WordsFit.hotRowRefresh : ∀ a0 a1 a2, WordsFit.Statement (.hotRowRefresh a0 a1 a2) := fun _ _ _ => fits_nil
theorem WordsFit.stackEngineWatchdog : ∀ a0, WordsFit.Statement (.stackEngineWatchdog a0) := fun _ => fits_nil
theorem WordsFit.clearingEngineRow : ∀ a0, WordsFit.Statement (.clearingEngineRow a0) := fun _ => fits_nil
theorem WordsFit.sramScrub : ∀ a0, WordsFit.Statement (.sramScrub a0) := fun _ => fits_nil
theorem WordsFit.dramScrub : ∀ a0, WordsFit.Statement (.dramScrub a0) := fun _ => fits_nil
theorem WordsFit.recordWrite : ∀ a0 a1, WordsFit.Statement (.recordWrite a0 a1) := fun _ _ => fits_nil
theorem WordsFit.pactActivate : ∀ a0 a1, WordsFit.Statement (.pactActivate a0 a1) := fun _ _ => fits_nil
theorem WordsFit.pactReset : ∀ a0, WordsFit.Statement (.pactReset a0) := fun _ => fits_nil
theorem WordsFit.pactDisable : ∀ a0, WordsFit.Statement (.pactDisable a0) := fun _ => fits_nil
theorem WordsFit.pbindWrite : ∀ a0 a1, WordsFit.Statement (.pbindWrite a0 a1) := fun _ _ => fits_nil
theorem WordsFit.preqPreempt : ∀ a0 a1, WordsFit.Statement (.preqPreempt a0 a1) := fun _ _ => fits_nil
theorem WordsFit.preqResume : ∀ a0 a1, WordsFit.Statement (.preqResume a0 a1) := fun _ _ => fits_nil
theorem WordsFit.rcvrReplay : ∀ a0 a1 a2, WordsFit.Statement (.rcvrReplay a0 a1 a2) := fun _ _ _ => fits_nil
theorem WordsFit.rcvrRebindReplay : ∀ a0 a1 a2 a3, WordsFit.Statement (.rcvrRebindReplay a0 a1 a2 a3) := fun _ _ _ _ => fits_nil
theorem WordsFit.rcvrAbort : ∀ a0 a1 a2, WordsFit.Statement (.rcvrAbort a0 a1 a2) := fun _ _ _ => fits_nil
theorem WordsFit.fdemRole : ∀ a0 a1 a2 a3, WordsFit.Statement (.fdemRole a0 a1 a2 a3) := fun _ _ _ _ => fits_nil
theorem WordsFit.fdemObject : ∀ a0 a1 a2, WordsFit.Statement (.fdemObject a0 a1 a2) := fun _ _ _ => fits_nil
theorem WordsFit.qcfgWrite : ∀ a0 a1 a2, WordsFit.Statement (.qcfgWrite a0 a1 a2) := fun _ _ _ => fits_nil
theorem WordsFit.wakeWrite : ∀ a0, WordsFit.Statement (.wakeWrite a0) := fun _ => fits_nil
theorem WordsFit.pstlLoad : WordsFit.Statement .pstlLoad := fits_nil
theorem WordsFit.functionLevelReset : ∀ a0, WordsFit.Statement (.functionLevelReset a0) := fun _ => fits_nil
theorem WordsFit.hostMemoryRead : ∀ a0 a1 a2, WordsFit.Statement (.hostMemoryRead a0 a1 a2) := fun _ _ _ => fits_nil
theorem WordsFit.hostMemoryWrite : ∀ a0 a1 a2, WordsFit.Statement (.hostMemoryWrite a0 a1 a2) := fun _ _ _ => fits_nil
theorem WordsFit.rootMailboxWrite : ∀ a0, WordsFit.Statement (.rootMailboxWrite a0) := fun _ => fits_nil
theorem WordsFit.berastRd : ∀ a0, WordsFit.Statement (.berastRd a0) := fun _ => fits_nil
theorem WordsFit.berastWr : ∀ a0, WordsFit.Statement (.berastWr a0) := fun _ => fits_nil
theorem WordsFit.berastAtom : ∀ a0, WordsFit.Statement (.berastAtom a0) := fun _ => fits_nil
theorem WordsFit.berastBar : ∀ a0, WordsFit.Statement (.berastBar a0) := fun _ => fits_nil
theorem WordsFit.berastRedp : ∀ a0, WordsFit.Statement (.berastRedp a0) := fun _ => fits_nil
theorem WordsFit.berastChnb : ∀ a0, WordsFit.Statement (.berastChnb a0) := fun _ => fits_nil
theorem WordsFit.berastPlcd : ∀ a0, WordsFit.Statement (.berastPlcd a0) := fun _ => fits_nil
theorem WordsFit.berastRdr : ∀ a0, WordsFit.Statement (.berastRdr a0) := fun _ => fits_nil
theorem WordsFit.berastAck : ∀ a0, WordsFit.Statement (.berastAck a0) := fun _ => fits_nil
theorem WordsFit.berastAtr : ∀ a0, WordsFit.Statement (.berastAtr a0) := fun _ => fits_nil
theorem WordsFit.berastBrs : ∀ a0, WordsFit.Statement (.berastBrs a0) := fun _ => fits_nil
theorem WordsFit.berastRedm : ∀ a0, WordsFit.Statement (.berastRedm a0) := fun _ => fits_nil
theorem WordsFit.berastErr : ∀ a0, WordsFit.Statement (.berastErr a0) := fun _ => fits_nil
theorem WordsFit.berastFlitDrop : ∀ a0, WordsFit.Statement (.berastFlitDrop a0) := fun _ => fits_nil
theorem WordsFit.portDown : ∀ a0, WordsFit.Statement (.portDown a0) := fun _ => fits_nil
theorem WordsFit.churnStepSend : ∀ a0, WordsFit.Statement (.churnStepSend a0) := fun _ => fits_nil
theorem WordsFit.churnOpenTimeout : ∀ a0, WordsFit.Statement (.churnOpenTimeout a0) := fun _ => fits_nil
theorem WordsFit.oszinRd : ∀ a0 a1, WordsFit.Statement (.oszinRd a0 a1) := fun _ _ => fits_nil
theorem WordsFit.oszinWr : ∀ a0 a1, WordsFit.Statement (.oszinWr a0 a1) := fun _ _ => fits_nil
theorem WordsFit.gopen : ∀ a0 a1, WordsFit.Statement (.gopen a0 a1) := fun _ _ => fits_nil
theorem WordsFit.grow : ∀ a0 a1, WordsFit.Statement (.grow a0 a1) := fun _ _ => fits_nil
theorem WordsFit.gcmt : ∀ a0 a1, WordsFit.Statement (.gcmt a0 a1) := fun _ _ => fits_nil
theorem WordsFit.gabt : ∀ a0 a1, WordsFit.Statement (.gabt a0 a1) := fun _ _ => fits_nil
theorem WordsFit.slot : ∀ a0 a1, WordsFit.Statement (.slot a0 a1) := fun _ _ => fits_nil
theorem WordsFit.idrd : ∀ a0 a1, WordsFit.Statement (.idrd a0 a1) := fun _ _ => fits_nil
theorem WordsFit.reprd : ∀ a0 a1, WordsFit.Statement (.reprd a0 a1) := fun _ _ => fits_nil
theorem WordsFit.rste : ∀ a0 a1, WordsFit.Statement (.rste a0 a1) := fun _ _ => fits_nil
theorem WordsFit.clrs : ∀ a0 a1, WordsFit.Statement (.clrs a0 a1) := fun _ _ => fits_nil
theorem WordsFit.esans : ∀ a0 a1, WordsFit.Statement (.esans a0 a1) := fun _ _ => fits_nil
theorem WordsFit.oszinRdr : ∀ a0 a1, WordsFit.Statement (.oszinRdr a0 a1) := fun _ _ => fits_nil
theorem WordsFit.oszinAck : ∀ a0 a1, WordsFit.Statement (.oszinAck a0 a1) := fun _ _ => fits_nil
theorem WordsFit.gdone : ∀ a0 a1, WordsFit.Statement (.gdone a0 a1) := fun _ _ => fits_nil
theorem WordsFit.blk : ∀ a0 a1, WordsFit.Statement (.blk a0 a1) := fun _ _ => fits_nil
theorem WordsFit.wdog : ∀ a0 a1, WordsFit.Statement (.wdog a0 a1) := fun _ _ => fits_nil
theorem WordsFit.rstd : ∀ a0 a1, WordsFit.Statement (.rstd a0 a1) := fun _ _ => fits_nil
theorem WordsFit.clrd : ∀ a0 a1, WordsFit.Statement (.clrd a0 a1) := fun _ _ => fits_nil
theorem WordsFit.escmd : ∀ a0 a1, WordsFit.Statement (.escmd a0 a1) := fun _ _ => fits_nil
theorem WordsFit.esreqRd : ∀ a0 a1, WordsFit.Statement (.esreqRd a0 a1) := fun _ _ => fits_nil
theorem WordsFit.esreqWr : ∀ a0 a1, WordsFit.Statement (.esreqWr a0 a1) := fun _ _ => fits_nil
theorem WordsFit.esreqAtom : ∀ a0 a1, WordsFit.Statement (.esreqAtom a0 a1) := fun _ _ => fits_nil
theorem WordsFit.esreqBar : ∀ a0 a1, WordsFit.Statement (.esreqBar a0 a1) := fun _ _ => fits_nil
theorem WordsFit.esreqRedp : ∀ a0 a1, WordsFit.Statement (.esreqRedp a0 a1) := fun _ _ => fits_nil
theorem WordsFit.oszinErr : ∀ a0 a1, WordsFit.Statement (.oszinErr a0 a1) := fun _ _ => fits_nil
theorem WordsFit.oszinMalformedFlit : ∀ a0 a1, WordsFit.Statement (.oszinMalformedFlit a0 a1) := fun _ _ => fits_nil
theorem WordsFit.oszinLinkLost : ∀ a0, WordsFit.Statement (.oszinLinkLost a0) := fun _ => fits_nil
theorem WordsFit.flashMemoryRead : ∀ a0 a1, WordsFit.Statement (.flashMemoryRead a0 a1) := fun _ _ => fits_nil
theorem WordsFit.flashDeferrableWrite : ∀ a0 a1, WordsFit.Statement (.flashDeferrableWrite a0 a1) := fun _ _ => fits_nil
theorem WordsFit.flashRequestRetry : ∀ a0, WordsFit.Statement (.flashRequestRetry a0) := fun _ => fits_nil
theorem WordsFit.flashEngineRequest : ∀ a0, WordsFit.Statement (.flashEngineRequest a0) := fun _ => fits_nil
theorem WordsFit.flashEngineAnswer : ∀ a0, WordsFit.Statement (.flashEngineAnswer a0) := fun _ => fits_nil
theorem WordsFit.flashQueueWork : ∀ a0, WordsFit.Statement (.flashQueueWork a0) := fun _ => fits_nil
theorem WordsFit.flashQueueWorkAnswer : ∀ a0 a1 a2 a3, WordsFit.Statement (.flashQueueWorkAnswer a0 a1 a2 a3) := fun _ _ _ _ => fits_nil
theorem WordsFit.dieBlockClear : ∀ a0 a1, WordsFit.Statement (.dieBlockClear a0 a1) := fun _ _ => fits_nil
theorem WordsFit.dieEngineReset : ∀ a0 a1, WordsFit.Statement (.dieEngineReset a0 a1) := fun _ _ => fits_nil
theorem WordsFit.flashLinkLost : ∀ a0, WordsFit.Statement (.flashLinkLost a0) := fun _ => fits_nil
theorem WordsFit.powerOn : ∀ a0 a1 a2 a3, WordsFit.Statement (.powerOn a0 a1 a2 a3) := fun _ _ _ _ => fits_nil
theorem WordsFit.powerLoss : WordsFit.Statement .powerLoss := fits_nil
theorem WordsFit.thermalThrottle : ∀ a0, WordsFit.Statement (.thermalThrottle a0) := fun _ => fits_nil
theorem WordsFit.thermalTrip : WordsFit.Statement .thermalTrip := fits_nil
theorem WordsFit.prefetchArrival : WordsFit.Statement .prefetchArrival := fits_nil
theorem WordsFit.activationWindowEnd : ∀ a0, WordsFit.Statement (.activationWindowEnd a0) := fun _ => fits_nil
theorem WordsFit.queueReset : ∀ a0 a1, WordsFit.Statement (.queueReset a0 a1) := fun _ _ => fits_nil
theorem WordsFit.launchAbort : ∀ a0 a1, WordsFit.Statement (.launchAbort a0 a1) := fun _ _ => fits_nil
theorem WordsFit.attestationReport : ∀ a0 a1, WordsFit.Statement (.attestationReport a0 a1) := fun _ _ => fits_nil
theorem WordsFit.imageMeasurement : ∀ a0 a1 a2, WordsFit.Statement (.imageMeasurement a0 a1 a2) := fun _ _ _ => fits_nil

end Sys2Proof.Laws
end

