-- ==== Sys2Proof/Tests/Slice0.lean ====
section
/-! SUPPORT. Tests: ill-formed terms that the check refuses, words of the specification that decode to their instructions, small
steps, and for every statement states and operands that meet its hypotheses. Expected values come from the specification. -/

open Sys2Proof

namespace Sys2Proof.Machine

set_option maxRecDepth 100000
set_option Elab.async false

/-! ### States for the tests

`bare` is the module after reset, whose root core has the turn and addresses memory by physical addresses. `tile` has a launch
of one task, role 0 on core 0, in partition 0. -/

/-- No token bits. -/
def off : Toks := ⟨false, false, false, false⟩

/-- Register r of every copy of the running core holds v. -/
def State.withReg (s : State) (r : Reg) (v : Word) : State := s.setMe (Eng.all.foldl (fun c e => c.setS e r.val v) s.me)

def bare (e : Eng) : State := { State.reset with eng := e }

def launch0 : Launch := { Launch.firmware 0 with queue := 0, table := [0] }

def tileCore : Core := { Core.zero with owner := some 0, csr := [(17, 4194320#64), (273, 4194320#64), (529, 4194320#64), (785, 4194320#64)] }

def tile (e : Eng) : State :=
  { State.reset with
    cur := 0
    eng := e
    cores := [(0, tileCore)]
    sched := { State.reset.sched with launches := [(0, launch0)], tasks := [(0, Task.start 0 0 0)] } }

/-- Every engine of the running core but its own stands as said. -/
def State.othersWait (s : State) (w : Wait) : State := s.setMe { s.me with wait := (Quad.const w).set s.eng .run }

def vw (d a b : Reg) (ty : Ty) : VW := ⟨off, d, a, b, 0, 0, false, 0, ty, 0, false, 0⟩
def mw (d a b : Reg) : MW := ⟨off, d, a, b, 0, 0, 0, 0⟩
def ms (d a : Reg) : MS := ⟨off, d, a, 31, 0, 0, 0⟩

/-- Partition 0 owns every slice, core and die; its tables map the first 512 MiB onto themselves (the level-1 table stands at 0x1F0000). -/
def part0 : Part := { Part.zero with slc := 2 ^ 48 - 1, core := 2 ^ 64 - 1, flash := 65535, enabled := true }

def State.withPart0 (s : State) : State := { s with parts := [(0, part0)], memory := { s.memory with bytes := [(0, 1), (2, 31), (2031616, 31)] } }

/-- A task of partition 0 that addresses memory. -/
def mapped (e : Eng) : State := (tile e).withPart0

/-- Control core 0, which serves partition 0. -/
def ctlCore : Core := { tileCore with mode := .control, owner := some 262144 }
def ctl (e : Eng) : State :=
  { State.reset with
    cur := 768
    eng := e
    cores := [(768, ctlCore)]
    sched := { State.reset.sched with launches := [(1024, Launch.firmware 768)], tasks := [(262144, Task.start 1024 0 768)] }
    edge := { Edge.reset with rootCsr := [(560, 256#64), (593, 1#64)] } }

/-- Partition 0 has one object: 64 KiB from bit 2^23 on, at home in tier 2; its record stands at byte 131072. -/
def State.withObject (s : State) : State :=
  { s with
    memory := { s.memory with bytes := [(0, 1), (2, 31), (131074, 128), (131082, 8), (131088, 32), (2031616, 31)] }
    edge := { s.edge with rootCsr := [(560, 256#64), (593, 1#64)], ctlCsr := [(272, 1048576#64), (273, 1#64), (275, 1#64)] } }

def State.withToken (s : State) (q : Nat) : State := s.setMe { s.me with fifo := s.me.fifo.put [] q [Quad.const 0] }

/-- A layout record of one i8 element at bit 0. -/
def genBytes : Sparse Byte := [(8, 4), (48, 1), (56, 1), (64, 1), (72, 1), (88, 8)]

/-- Core 0 with that generator 0, bank 0 in format i8 in every copy, and the valid part of registers 2 rows by 3 columns. -/
def small (e : Eng) : State :=
  (tile e).setMe { tileCore with
    gen := genBytes
    csr := [(17, 196610#64), (32, 7#64), (273, 196610#64), (288, 7#64), (529, 196610#64), (544, 7#64), (785, 196610#64), (800, 7#64)] }

/-- The instruction answers a next state. -/
def goesOn (i : Instr) (s : State) : Bool := match exec i s with | .next _ => true | _ => false

theorem exists_next {i : Instr} {s : State} (h : goesOn i s = true) : ∃ t, exec i s = .next t := by
  unfold goesOn at h
  split at h
  · exact ⟨_, ‹_›⟩
  · cases h

/-- The computation succeeds with a result of which p holds. -/
def succeeds {α : Type} (x : Except Stop α) (p : α → Bool) : Bool := match x with | .ok a => p a | .error _ => false

/-- The root core with a loaded generator and window, over memory that holds a layout record at bit 1024, a window descriptor at bit 4096, an
attention descriptor at bit 32768 and a linear state at bit 65536. -/
def rich (e : Eng) : State :=
  let s := { bare e with
    memory := { State.reset.memory with
      bytes := [(136, 4), (176, 1), (184, 1), (192, 1), (200, 1), (216, 8), (528, 1), (536, 1), (4098, 1), (4107, 16), (8192, 16)] } }
  let s := s.setMe { Core.rootReset with gen := genBytes, win := [(16, 1), (24, 1)] }
  ((((s.withReg 1 1024).withReg 2 4096).withReg 3 32768).withReg 4 65536).withReg 6 (2 ^ 63 + 131072)

/-- The root core in a module whose partition 0 owns all of DRAM. -/
def owner0 (e : Eng) : State := (bare e).withPart0

def State.withBytes (s : State) (xs : Sparse Byte) : State :=
  s.setMemory { s.memory with bytes := xs.foldl (fun m x => m.put 0 x.1 x.2) s.memory.bytes }

/-- The task of the root core, changed. -/
def State.withTask (s : State) (f : Task → Task) : State := s.setTask 267264 (f (Task.start 1044 0 788))

/-- Barrier 0 of partition 0 expects 2 arrivals and stands at phase 5. -/
def withBarrier (e : Eng) : State := ((bare e).initBarrier (barrierAt 0 0) 2).writeNum (barrierAt 0 0) 8 5

/-- Tree 0 of partition 0 with the root node and room for `cap` nodes. -/
def withTree (e : Eng) (cap : Nat) : State :=
  ((bare e).poke (treeAt 0 0 + 8) (bytesOfNat 8 cap) |>.poke (treeAt 0 0 + 24) (bytesOfNat 8 4)).putNode (treeAt 0 0) 0
    ⟨0, 0, noNode, noNode, 0, 0, 0, 1, 0, 0, 0, 0, 0, 0⟩

/-- The same tree with node 1, which stands for a segment of 16 zeros at bit 0 and belongs to the running launch. -/
def withChild (e : Eng) : State :=
  let s := withTree e 4
  (s.putNode (treeAt 0 0) 0 { s.node (treeAt 0 0) 0 with fchild := 1 }).putNode (treeAt 0 0) 1
    ⟨chainHash 0 (List.replicate 16 0), 0, noNode, noNode, 1, 0, 0, 3, 0, 0, 1, 0, 0, s.ownerField⟩

/-- A ring of n members of 128-byte blocks whose first member is the running task. -/
def ring (n : Nat) : Ring :=
  { ringFrom (1 + 2 ^ 16 + 64 * 2 ^ 64) ((List.range n).map fun r => (0, r)) 0 with opening := false }

/-- A ring record at byte 1024, its member table at byte 2048, and a placement table of one entry at byte 4096. -/
def withRecords (e : Eng) : State :=
  ((bare e).withBytes [(1024, 1), (1026, 1), (1032, 64), (1049, 0x40), (2054, 1), (4096, 1)]).withReg 1 8192 |>.withReg 2 32768

/-- The task's module with control core 0 serving partition 0, and the launch changed. -/
def served (f : Launch → Launch) : State :=
  let s := mapped .f
  { s with
    edge := { Edge.reset with rootCsr := [(560, 256#64), (593, 1#64)] }
    sched := { s.sched with launches := [(0, f launch0)], queues := [(0, { Queue.zero with cfg := 7, next := 7 })] } }

def State.withTask0 (s : State) (f : Task → Task) : State := s.setTask 0 (f (Task.start 0 0 0))

def req0 (promote : Bool) : CrmReq := ⟨0, 0, 0, 0, 0, promote, 0, 16, 1, 0, 0, 0⟩

/-- Where no port page is configured, no byte stands in one. -/
theorem no_port (s : State) (h : ∀ q ∈ List.range 16, s.edge.rootCsr.get 0#64 (544 + q) = 0#64) (p n : Nat) : s.portOver p n = false := by
  rw [State.portOver, List.any_eq_false]
  intro q hq
  simp [h q hq]

/-! ### Ill-formed terms -/

/-- For each constructor a well-formed term, and after it ill-formed terms, one for each check. -/
def illFormedV0 : List (List Instr) := [
  (let x : VW := ⟨⟨true, true, false, false⟩, 21, 10, 5, 0, 9, true, 0, .bf16, 3, true, 0⟩
   [x, { x with c := 1 }, { x with sub := 1 }, { x with ty := .i32 }, { x with rm := 5 }, { x with mod := 1 }].map .vadd),
  (let x : VW := ⟨⟨true, true, false, false⟩, 21, 10, 5, 0, 9, true, 0, .bf16, 3, true, 0⟩
   [x, { x with ty := .mk8 }].map .vsub),
  (let x : VW := ⟨⟨true, true, false, false⟩, 21, 10, 5, 0, 9, true, 0, .bf16, 3, true, 0⟩
   [x, { x with rm := 6 }].map .vmul),
  (let x : VW := ⟨⟨true, true, false, false⟩, 21, 10, 5, 0, 9, true, 18, .f16, 4, true, 0⟩
   [x, { x with sub := 1 }, { x with ty := .n8 }, { x with rm := 5 }, { x with mod := 1 }].map .vfma),
  (let x : VW := ⟨⟨true, true, false, false⟩, 21, 10, 5, 0, 9, true, 0, .n64, 0, false, 0⟩
   [x, { x with c := 1 }, { x with sub := 1 }, { x with ty := .b1 }, { x with rm := 1 }, { x with sat := true }, { x with mod := 1 }].map .vmin),
  (let x : VW := ⟨⟨true, true, false, false⟩, 21, 10, 5, 0, 9, true, 0, .n64, 0, false, 0⟩
   [x, { x with ty := .mk3 }].map .vmax),
  (let x : VW := ⟨⟨true, true, false, false⟩, 21, 10, 0, 0, 9, true, 0, .i16, 0, true, 0⟩
   [x, { x with b := 1 }, { x with c := 1 }, { x with sub := 1 }, { x with ty := .n16 }, { x with rm := 1 }, { x with mod := 1 }, { x with ty := .f32 }].map .vabs),
  (let x : VW := ⟨⟨true, true, false, false⟩, 21, 10, 0, 0, 9, true, 0, .i16, 0, true, 0⟩
   [x, { x with ty := .mk4 }].map .vneg),
  (let x : VW := ⟨⟨true, true, false, false⟩, 21, 10, 0, 0, 9, true, 0, .f32, 0, false, 0⟩
   [x, { x with b := 1 }, { x with c := 1 }, { x with sub := 1 }, { x with ty := .f16 }, { x with rm := 1 }, { x with sat := true }, { x with mod := 1 }].map .vrcp),
  (let x : VW := ⟨⟨true, true, false, false⟩, 21, 10, 0, 0, 9, true, 0, .f32, 0, false, 0⟩
   [x, { x with ty := .bf16 }].map .vrsq),
  (let x : VW := ⟨⟨true, true, false, false⟩, 21, 10, 5, 0, 9, true, 0, .f32, 2, false, 0⟩
   [x, { x with c := 1 }, { x with sub := 1 }, { x with ty := .f16 }, { x with rm := 5 }, { x with mod := 1 }].map .vrefr),
  (let x : VW := ⟨⟨true, true, false, false⟩, 21, 10, 5, 0, 9, true, 0, .f32, 2, false, 0⟩
   [x, { x with ty := .i32 }].map .vrefq),
  (let x : VW := ⟨⟨true, true, false, false⟩, 21, 10, 0, 0, 9, true, 0, .f16, 1, false, 0⟩
   [x, { x with b := 1 }, { x with c := 1 }, { x with sub := 1 }, { x with ty := .i8 }, { x with rm := 2 }, { x with sat := true }, { x with mod := 1 }].map .vexp2),
  (let x : VW := ⟨⟨true, true, false, false⟩, 21, 10, 0, 0, 9, true, 0, .f16, 1, false, 0⟩
   [x, { x with rm := 5 }].map .vlog2),
  (let x : VW := ⟨⟨true, true, false, false⟩, 21, 10, 0, 0, 9, true, 0, .f16, 1, false, 0⟩
   [x, { x with ty := .mk8 }].map .vtanh),
  (let x : VW := ⟨⟨true, true, false, false⟩, 21, 10, 5, 0, 9, true, 0, .n8, 0, true, 0⟩
   [x, { x with c := 1 }, { x with sub := 1 }, { x with ty := .f32 }, { x with rm := 1 }, { x with mod := 1 }].map .viadd)]
theorem test_wf_illFormedV0 : (illFormedV0.all fun xs => (xs.headD .halt).wf && (xs.drop 1).all fun i => !i.wf) = true := by decide +kernel
/-- For each constructor a well-formed term, and after it ill-formed terms, one for each check. -/
def illFormedV1 : List (List Instr) := [
  (let x : VW := ⟨⟨true, true, false, false⟩, 21, 10, 5, 0, 9, true, 0, .n8, 0, true, 0⟩
   [x, { x with ty := .mk8 }].map .visub),
  (let x : VW := ⟨⟨true, true, false, false⟩, 21, 10, 5, 1, 9, true, 0, .i64, 0, false, 0⟩
   [x, { x with c := 1 }, { x with ty := .f16 }, { x with rm := 1 }, { x with mod := 1 }, { x with sub := 2 }, { x with sat := true }].map .vimul),
  (let x : VW := ⟨⟨true, true, false, false⟩, 21, 10, 5, 0, 9, true, 0, .f32, 0, false, 0⟩
   [x, { x with c := 1 }, { x with sub := 1 }, { x with ty := .bf16 }, { x with rm := 1 }, { x with sat := true }, { x with mod := 1 }].map .vand),
  (let x : VW := ⟨⟨true, true, false, false⟩, 21, 10, 5, 0, 9, true, 0, .f32, 0, false, 0⟩
   [x, { x with ty := .i32 }].map .vor),
  (let x : VW := ⟨⟨true, true, false, false⟩, 21, 10, 5, 0, 9, true, 0, .f32, 0, false, 0⟩
   [x, { x with mod := 64 }].map .vxor),
  (let x : VW := ⟨⟨true, true, false, false⟩, 21, 10, 5, 0, 9, true, 0, .i32, 0, false, 0⟩
   [x, { x with c := 1 }, { x with sub := 1 }, { x with ty := .f32 }, { x with rm := 1 }, { x with sat := true }, { x with mod := 1 }].map .vshl),
  (let x : VW := ⟨⟨true, true, false, false⟩, 21, 10, 0, 0, 9, true, 0, .n16, 0, false, 77⟩
   [x, { x with mod := 64 + 16 }, { x with b := 1 }].map .vshr),
  (let x : VW := ⟨⟨true, true, false, false⟩, 21, 10, 0, 0, 9, true, 0, .i64, 0, false, 107⟩
   [x, { x with ty := .mk3 }].map .vshra),
  (let x : VW := ⟨⟨true, true, false, false⟩, 21, 10, 5, 1, 9, true, 0, .n32, 0, false, 0⟩
   [x, { x with c := 1 }, { x with sub := 2 }, { x with ty := .i32 }, { x with rm := 1 }, { x with sat := true }, { x with mod := 1 }].map .vclmul),
  (let x : VW := ⟨⟨true, true, false, false⟩, 13, 10, 5, 6, 9, true, 0, .bf16, 0, false, 0⟩
   [x, { x with d := 16 }, { x with c := 1 }, { x with rm := 1 }, { x with sat := true }, { x with mod := 1 }, { x with sub := 7 }, { x with ty := .i8 }, { x with ty := .b1 }].map .vcmp),
  (let x : VW := ⟨⟨true, true, false, false⟩, 21, 10, 5, 0, 9, true, 14, .f32, 0, false, 0⟩
   [x, { x with c := 16 }, { x with sub := 1 }, { x with ty := .n8 }, { x with rm := 1 }, { x with sat := true }, { x with mod := 1 }].map .vselp),
  (let x : VW := ⟨⟨true, true, false, false⟩, 21, 10, 0, 0, 9, true, 0, .mk4, 5, true, 11⟩
   [x, { x with b := 1 }, { x with c := 1 }, { x with sub := 1 }, { x with ty := .i64 }, { x with rm := 6 }, { x with mod := 13 }].map .vcvt),
  (let x : VW := ⟨⟨true, true, false, false⟩, 21, 10, 0, 0, 9, true, 18, .mk6, 5, false, 0⟩
   [x, { x with b := 1 }, { x with sub := 1 }, { x with c := 21 }, { x with ty := .f32 }, { x with rm := 6 }, { x with sat := true }, { x with mod := 1 }].map .vqnt),
  (let x : VW := ⟨⟨true, true, false, false⟩, 21, 10, 0, 0, 9, true, 0, .f32, 0, false, 2⟩
   [x, { x with b := 1 }, { x with c := 1 }, { x with sub := 1 }, { x with ty := .f16 }, { x with rm := 1 }, { x with sat := true }, { x with mod := 3 }].map .vhad),
  (let x : VW := ⟨⟨true, true, false, false⟩, 21, 10, 0, 0, 9, true, 0, .f32, 0, false, 77⟩
   [x, { x with b := 1 }, { x with c := 1 }, { x with sub := 1 }, { x with ty := .f16 }, { x with rm := 1 }, { x with sat := true }, { x with mod := 64 + 16 }].map .vrotr),
  (let x : VW := ⟨⟨true, true, false, false⟩, 21, 10, 0, 0, 9, true, 0, .f32, 0, false, 107⟩
   [x, { x with b := 1 }].map .vrotc)]
theorem test_wf_illFormedV1 : (illFormedV1.all fun xs => (xs.headD .halt).wf && (xs.drop 1).all fun i => !i.wf) = true := by decide +kernel
/-- For each constructor a well-formed term, and after it ill-formed terms, one for each check. -/
def illFormedV2 : List (List Instr) := [
  (let x : VW := ⟨⟨true, true, false, false⟩, 21, 10, 5, 0, 9, true, 0, .f32, 0, false, 0⟩
   [x, { x with mod := 1 }].map .vbcr),
  (let x : VW := ⟨⟨true, true, false, false⟩, 21, 10, 0, 0, 9, true, 0, .f32, 0, false, 127⟩
   [x, { x with rm := 1 }].map .vbcc),
  (let x : VW := ⟨⟨true, true, false, false⟩, 21, 10, 0, 0, 9, true, 0, .n8, 0, false, 13⟩
   [x, { x with b := 1 }, { x with c := 1 }, { x with sub := 1 }, { x with ty := .f32 }, { x with ty := .i64 }, { x with rm := 1 }, { x with sat := true }, { x with mod := 6 }, { x with mod := 16 }].map .vredr),
  (let x : VW := ⟨⟨true, true, false, false⟩, 21, 10, 0, 0, 9, true, 0, .i16, 0, true, 8⟩
   [x, { x with mod := 1 }].map .vredc),
  (let x : VW := ⟨⟨true, true, false, false⟩, 21, 10, 0, 0, 9, true, 0, .f32, 0, false, 18⟩
   [x, { x with b := 1 }, { x with c := 1 }, { x with sub := 1 }, { x with ty := .mk8 }, { x with rm := 1 }, { x with sat := true }, { x with mod := 8 }, { x with mod := 32 }, { x with mod := 3 }].map .vscnr),
  (let x : VW := ⟨⟨true, true, false, false⟩, 21, 10, 0, 0, 9, true, 0, .i32, 0, false, 20⟩
   [x, { x with mod := 7 }].map .vscnc),
  (let x : VW := ⟨⟨true, true, false, false⟩, 21, 10, 0, 0, 9, true, 0, .f32, 0, false, 0⟩
   [x, { x with b := 1 }, { x with c := 1 }, { x with sub := 1 }, { x with ty := .bf16 }, { x with rm := 1 }, { x with sat := true }, { x with mod := 1 }].map .vtrn),
  (let x : VW := ⟨⟨true, true, false, false⟩, 21, 10, 0, 0, 9, true, 0, .f32, 0, false, 0⟩
   [x, { x with b := 1 }].map .vcomp),
  (let x : VW := ⟨⟨true, true, false, false⟩, 21, 10, 0, 0, 9, true, 0, .f32, 0, false, 0⟩
   [x, { x with mod := 1 }].map .vmov),
  (let x : VW := ⟨⟨true, true, false, false⟩, 21, 7, 0, 0, 9, true, 0, .f32, 0, false, 0⟩
   [x, { x with a := 8 }, { x with b := 1 }, { x with c := 1 }, { x with sub := 1 }, { x with ty := .i32 }, { x with mod := 1 }].map .vmovz),
  (let x : VW := ⟨⟨true, true, false, false⟩, 13, 10, 0, 0, 9, false, 18, .n16, 0, false, 107⟩
   [x, { x with d := 16 }, { x with b := 1 }, { x with sub := 1 }, { x with ty := .i64 }, { x with rm := 1 }, { x with sat := true }, { x with z := true }, { x with mod := 0 }].map .vtopk),
  (let x : VW := ⟨⟨true, true, false, false⟩, 21, 0, 0, 2, 9, true, 0, .f32, 0, false, 0⟩
   [x, { x with a := 1 }, { x with b := 1 }, { x with c := 1 }, { x with sub := 3 }, { x with ty := .i32 }, { x with rm := 1 }, { x with sat := true }, { x with mod := 1 }].map .viota),
  (let x : VW := ⟨⟨true, true, false, false⟩, 21, 10, 5, 0, 0, false, 0, .n64, 0, false, 0⟩
   [x, { x with c := 1 }, { x with sub := 1 }, { x with ty := .mk4 }, { x with mod := 1 }, { x with pred := 1 }, { x with z := true }].map .vmovs),
  (let x : VW := ⟨⟨true, true, false, false⟩, 21, 10, 0, 0, 9, true, 0, .mk3, 0, false, 0⟩
   [x, { x with b := 1 }, { x with ty := .b1 }, { x with rm := 1 }].map .vbcs),
  (let x : VW := ⟨⟨true, true, false, false⟩, 21, 10, 5, 0, 9, true, 0, .mk8, 5, true, 0⟩
   [x, { x with a := 16 }, { x with c := 1 }, { x with sub := 1 }, { x with ty := .i64 }, { x with rm := 6 }, { x with mod := 1 }].map .vldb),
  (let x : VW := ⟨⟨true, true, false, false⟩, 13, 10, 5, 0, 9, false, 0, .i8, 0, false, 0⟩
   [x, { x with d := 16 }, { x with c := 1 }, { x with sub := 1 }, { x with ty := .n64 }, { x with rm := 1 }, { x with z := true }].map .vstb)]
theorem test_wf_illFormedV2 : (illFormedV2.all fun xs => (xs.headD .halt).wf && (xs.drop 1).all fun i => !i.wf) = true := by decide +kernel
/-- For each constructor a well-formed term, and after it ill-formed terms, one for each check. -/
def illFormedV3 : List (List Instr) := [
  (let x : VW := ⟨⟨true, true, false, false⟩, 13, 10, 5, 0, 9, true, 0, .f32, 0, false, 0⟩
   [x, { x with d := 16 }, { x with a := 16 }, { x with b := 16 }, { x with c := 1 }, { x with sub := 1 }, { x with ty := .i32 }, { x with rm := 1 }].map .pand),
  (let x : VW := ⟨⟨true, true, false, false⟩, 13, 10, 5, 0, 9, true, 0, .f32, 0, false, 0⟩
   [x, { x with a := 16 }].map .por),
  (let x : VW := ⟨⟨true, true, false, false⟩, 13, 10, 5, 0, 9, true, 0, .f32, 0, false, 0⟩
   [x, { x with b := 16 }].map .pxor),
  (let x : VW := ⟨⟨true, true, false, false⟩, 13, 10, 0, 0, 9, true, 0, .f32, 0, false, 0⟩
   [x, { x with d := 16 }, { x with a := 16 }, { x with b := 1 }, { x with ty := .i32 }, { x with mod := 1 }].map .pnot),
  (let x : VW := ⟨⟨true, true, false, false⟩, 13, 0, 0, 0, 9, true, 0, .f32, 0, false, 1⟩
   [x, { x with d := 16 }, { x with a := 1 }, { x with b := 1 }, { x with ty := .i32 }, { x with rm := 1 }, { x with sat := true }, { x with mod := 4 }, { x with mod := 2 }].map .pset),
  (let x : VW := ⟨⟨true, true, false, false⟩, 21, 10, 0, 1, 9, true, 0, .f32, 0, false, 0⟩
   [x, { x with a := 16 }, { x with b := 1 }, { x with c := 1 }, { x with sub := 2 }, { x with ty := .i32 }, { x with mod := 1 }].map .pcnt),
  (let x : VW := ⟨⟨true, true, false, false⟩, 21, 10, 0, 1, 9, true, 0, .f32, 0, false, 0⟩
   [x, { x with sub := 0 }, { x with a := 16 }].map .pfrst),
  (let x : VW := ⟨⟨true, true, false, false⟩, 21, 10, 0, 0, 0, false, 0, .f32, 0, false, 0⟩
   [x, { x with a := 16 }, { x with b := 1 }, { x with ty := .i32 }, { x with pred := 1 }, { x with z := true }].map .ppack),
  (let x : VW := ⟨⟨true, true, false, false⟩, 13, 10, 0, 0, 0, false, 0, .f32, 0, false, 0⟩
   [x, { x with d := 16 }, { x with b := 1 }, { x with pred := 1 }, { x with z := true }].map .punpk),
  (let x : VW := ⟨⟨true, true, false, false⟩, 21, 0, 0, 1, 9, true, 18, .f32, 0, false, 0⟩
   [x, { x with a := 1 }, { x with b := 1 }, { x with sub := 2 }, { x with ty := .f16 }, { x with rm := 1 }].map .atmrg)]
theorem test_wf_illFormedV3 : (illFormedV3.all fun xs => (xs.headD .halt).wf && (xs.drop 1).all fun i => !i.wf) = true := by decide +kernel
/-- For each constructor a well-formed term, and after it ill-formed terms, one for each check. -/
def illFormedM : List (List Instr) := [
  (let x : VW := ⟨⟨false, true, true, false⟩, 6, 10, 5, 0, 9, true, 18, .mk4, 0, false, 0⟩
   [x, { x with d := 8 }, { x with a := 16 }, { x with b := 8 }, { x with sub := 1 }, { x with ty := .f32 }, { x with rm := 1 }].map .mma),
  (let x : VW := ⟨⟨false, true, true, false⟩, 6, 10, 5, 0, 9, true, 18, .n8, 0, false, 0⟩
   [x, { x with d := 8 }, { x with a := 16 }, { x with b := 8 }, { x with sub := 1 }, { x with ty := .i16 }, { x with sat := true }].map .mmai),
  (let x : VW := ⟨⟨false, true, true, false⟩, 6, 21, 0, 0, 9, true, 0, .f32, 0, false, 0⟩
   [x, { x with d := 8 }, { x with b := 1 }, { x with ty := .i32 }, { x with mod := 1 }].map .mmv),
  (let x : VW := ⟨⟨false, true, true, false⟩, 6, 0, 0, 0, 9, true, 0, .f32, 0, false, 0⟩
   [x, { x with d := 8 }, { x with a := 1 }, { x with b := 1 }, { x with ty := .i32 }].map .mz),
  (let x : VW := ⟨⟨false, true, true, false⟩, 6, 21, 0, 1, 9, true, 0, .f32, 3, false, 0⟩
   [x, { x with d := 8 }, { x with b := 1 }, { x with c := 1 }, { x with sub := 2 }, { x with sub := 0 }, { x with sat := true }, { x with mod := 1 }, { x with rm := 5 }, { x with ty := .i32 }, { x with ty := .f16 }].map .macc),
  (let x : VW := ⟨⟨false, true, true, false⟩, 0, 10, 21, 1, 0, false, 0, .f32, 0, false, 0⟩
   [x, { x with d := 1 }, { x with a := 16 }, { x with sub := 2 }, { x with c := 1 }, { x with ty := .i32 }, { x with pred := 1 }, { x with z := true }, { x with mod := 1 }].map .mwcp),
  (let x : VW := ⟨⟨false, true, true, false⟩, 0, 21, 0, 0, 0, false, 0, .f32, 0, false, 0⟩
   [x, { x with d := 1 }, { x with b := 1 }, { x with ty := .i32 }, { x with pred := 1 }, { x with z := true }, { x with rm := 1 }].map .mwclr)]
theorem test_wf_illFormedM : (illFormedM.all fun xs => (xs.headD .halt).wf && (xs.drop 1).all fun i => !i.wf) = true := by decide +kernel
/-- For each constructor a well-formed term, and after it ill-formed terms, one for each check. -/
def illFormedF0 : List (List Instr) := [
  (let x : MW := ⟨⟨true, false, false, true⟩, 13, 21, 6, 0, 9, 3, 43981⟩
   [x, { x with d := 16 }, { x with b := 8 }, { x with sub := 1 }, { x with sc := 4 }, { x with ofs := 65536 }].map .fld),
  (let x : MW := ⟨⟨true, false, false, true⟩, 21, 10, 6, 1, 9, 3, 0⟩
   [x, { x with b := 8 }, { x with sub := 2 }, { x with sc := 4 }, { x with ofs := 1 }].map .fldv),
  (let x : MW := ⟨⟨true, false, false, true⟩, 21, 10, 0, 5, 0, 0, 175053⟩
   [x, { x with b := 1 }, { x with oc := 1 }, { x with sc := 1 }].map .fldk),
  (let x : MS := ⟨⟨true, false, false, true⟩, 21, 10, 43, 9, 3, 175053⟩
   [x, { x with wm1 := 64 }, { x with sc := 4 }].map .lds),
  (let x : MW := ⟨⟨true, false, false, true⟩, 13, 21, 6, 0, 9, 3, 11213⟩
   [x, { x with d := 16 }, { x with b := 8 }, { x with sub := 1 }, { x with sc := 4 }, { x with ofs := 16384 }].map .fgath),
  (let x : MW := ⟨⟨true, false, false, true⟩, 6, 21, 0, 0, 9, 3, 0⟩
   [x, { x with d := 8 }, { x with b := 1 }, { x with sub := 1 }, { x with sc := 4 }, { x with ofs := 1 }].map .wset),
  (let x : MW := ⟨⟨true, false, false, true⟩, 6, 21, 0, 0, 9, 3, 0⟩
   [x, { x with d := 8 }].map .wadv),
  (let x : MW := ⟨⟨true, false, false, true⟩, 0, 21, 10, 0, 0, 0, 0⟩
   [x, { x with d := 1 }, { x with sub := 1 }, { x with oc := 1 }, { x with sc := 1 }, { x with ofs := 1 }].map .pref),
  (let x : MW := ⟨⟨true, false, false, true⟩, 22, 10, 5, 1, 0, 0, 0⟩
   [x, { x with d := 21 }, { x with d := 0 }, { x with sub := 0 }, { x with oc := 1 }].map .prefArr),
  (let x : MW := ⟨⟨true, false, false, true⟩, 6, 21, 0, 0, 9, 3, 0⟩
   [x, { x with d := 8 }].map .gset),
  (let x : MW := ⟨⟨true, false, false, true⟩, 13, 10, 21, 0, 0, 0, 0⟩
   [x, { x with d := 16 }, { x with a := 16 }, { x with sub := 1 }, { x with ofs := 1 }].map .xcpy),
  (let x : MW := ⟨⟨true, false, false, true⟩, 0, 21, 10, 0, 9, 3, 1445⟩
   [x, { x with d := 1 }, { x with sub := 1 }, { x with sc := 4 }, { x with ofs := 2048 }].map .fldw),
  (let x : MW := ⟨⟨true, false, false, true⟩, 21, 10, 5, 0, 0, 0, 0⟩
   [x, { x with sub := 1 }, { x with sc := 1 }].map .bwait),
  (let x : MW := ⟨⟨true, false, false, true⟩, 21, 10, 5, 6, 0, 2, 43981⟩
   [x, { x with oc := 1 }, { x with sc := 4 }, { x with ofs := 65536 }, { x with sub := 1 }].map .fenceF),
  (let x : MW := ⟨⟨true, false, false, true⟩, 21, 10, 5, 0, 9, 3, 1⟩
   [x, { x with sub := 1 }, { x with sc := 4 }, { x with ofs := 2 }].map .attp),
  (let x : MW := ⟨⟨true, false, false, true⟩, 21, 10, 5, 0, 9, 3, 1⟩
   [x, { x with ofs := 2 }].map .attl)]
theorem test_wf_illFormedF0 : (illFormedF0.all fun xs => (xs.headD .halt).wf && (xs.drop 1).all fun i => !i.wf) = true := by decide +kernel
/-- For each constructor a well-formed term, and after it ill-formed terms, one for each check. -/
def illFormedF1 : List (List Instr) := [
  (let x : MW := ⟨⟨true, false, false, true⟩, 21, 10, 5, 0, 9, 3, 0⟩
   [x, { x with sub := 1 }, { x with sc := 4 }, { x with ofs := 1 }].map .strSeek),
  (let x : MW := ⟨⟨true, false, false, true⟩, 21, 0, 0, 0, 0, 0, 0⟩
   [x, { x with a := 1 }, { x with b := 1 }, { x with sub := 1 }, { x with oc := 1 }].map .chnNxt)]
theorem test_wf_illFormedF1 : (illFormedF1.all fun xs => (xs.headD .halt).wf && (xs.drop 1).all fun i => !i.wf) = true := by decide +kernel
/-- For each constructor a well-formed term, and after it ill-formed terms, one for each check. -/
def illFormedW0 : List (List Instr) := [
  (let x : MW := ⟨⟨false, false, true, false⟩, 21, 10, 5, 4, 0, 1, 43981⟩
   [x, { x with oc := 1 }, { x with sc := 4 }, { x with ofs := 65536 }, { x with sub := 1 }, { x with sub := 2 }].map .fenceW),
  (let x : MW := ⟨⟨false, false, true, false⟩, 13, 21, 6, 0, 9, 3, 43981⟩
   [x, { x with d := 16 }].map .fst),
  (let x : MW := ⟨⟨false, false, true, false⟩, 21, 10, 6, 0, 9, 3, 0⟩
   [x, { x with sub := 1 }, { x with b := 8 }, { x with sc := 4 }, { x with ofs := 1 }].map .fstv),
  (let x : MS := ⟨⟨false, false, true, false⟩, 21, 10, 63, 9, 3, 175053⟩
   [x, { x with wm1 := 64 }].map .sts),
  (let x : MW := ⟨⟨false, false, true, false⟩, 13, 21, 6, 0, 9, 3, 11213⟩
   [x, { x with ofs := 16384 }].map .fscat),
  (let x : MW := ⟨⟨false, false, true, false⟩, 21, 10, 5, 0, 9, 3, 105⟩
   [x, { x with sub := 1 }, { x with sc := 4 }, { x with ofs := 128 }, { x with ofs := 10 }, { x with ofs := 16 }, { x with ofs := 48 }].map .atom),
  (let x : MW := ⟨⟨false, false, true, false⟩, 13, 10, 5, 0, 0, 0, 2⟩
   [x, { x with d := 16 }, { x with sub := 1 }, { x with oc := 1 }, { x with sc := 1 }, { x with ofs := 3 }].map .red),
  (let x : MW := ⟨⟨false, false, true, false⟩, 21, 10, 5, 5, 0, 0, 0⟩
   [x, { x with sub := 6 }, { x with ofs := 1 }].map .copy),
  (let x : MW := ⟨⟨false, false, true, false⟩, 0, 21, 0, 0, 0, 0, 0⟩
   [x, { x with d := 1 }, { x with b := 1 }, { x with sub := 1 }, { x with oc := 1 }].map .publ),
  (let x : MW := ⟨⟨false, false, true, false⟩, 0, 21, 0, 0, 0, 0, 0⟩
   [x, { x with b := 1 }].map .mgrp),
  (let x : MW := ⟨⟨false, false, true, false⟩, 0, 21, 10, 0, 0, 0, 0⟩
   [x, { x with d := 1 }, { x with sub := 1 }, { x with sc := 1 }].map .shad),
  (let x : MW := ⟨⟨false, false, true, false⟩, 0, 21, 10, 0, 0, 0, 0⟩
   [x, { x with d := 1 }].map .invl),
  (let x : MW := ⟨⟨false, false, true, false⟩, 0, 21, 10, 0, 0, 0, 0⟩
   [x, { x with d := 1 }].map .strPin),
  (let x : MW := ⟨⟨false, false, true, false⟩, 0, 21, 10, 0, 0, 0, 0⟩
   [x, { x with sub := 1 }].map .strRel),
  (let x : MW := ⟨⟨false, false, true, false⟩, 21, 10, 0, 0, 0, 0, 0⟩
   [x, { x with b := 1 }, { x with sub := 1 }, { x with ofs := 1 }].map .bini),
  (let x : MW := ⟨⟨false, false, true, false⟩, 21, 10, 0, 0, 0, 0, 0⟩
   [x, { x with b := 1 }].map .barr)]
theorem test_wf_illFormedW0 : (illFormedW0.all fun xs => (xs.headD .halt).wf && (xs.drop 1).all fun i => !i.wf) = true := by decide +kernel
/-- For each constructor a well-formed term, and after it ill-formed terms, one for each check. -/
def illFormedW1 : List (List Instr) := [
  (let x : MW := ⟨⟨false, false, true, false⟩, 21, 10, 0, 0, 0, 0, 0⟩
   [x, { x with b := 1 }].map .plcApp),
  (let x : MW := ⟨⟨false, false, true, false⟩, 0, 21, 10, 1, 0, 0, 1⟩
   [x, { x with d := 1 }, { x with sub := 2 }, { x with sub := 0 }, { x with oc := 1 }, { x with sc := 1 }, { x with ofs := 2 }].map .mrow),
  (let x : MW := ⟨⟨false, false, true, false⟩, 21, 0, 0, 0, 0, 0, 0⟩
   [x, { x with a := 1 }].map .mcmt),
  (let x : MW := ⟨⟨false, false, true, false⟩, 0, 21, 10, 2, 9, 3, 0⟩
   [x, { x with d := 1 }, { x with sub := 3 }, { x with sc := 4 }, { x with ofs := 1 }].map .attf),
  (let x : MW := ⟨⟨false, false, true, false⟩, 21, 10, 0, 0, 9, 3, 0⟩
   [x, { x with b := 1 }, { x with sc := 4 }, { x with ofs := 1 }].map .strDep),
  (let x : MW := ⟨⟨false, false, true, false⟩, 21, 10, 5, 0, 0, 0, 0⟩
   [x, { x with sub := 1 }, { x with oc := 1 }].map .strDrop),
  (let x : MW := ⟨⟨false, false, true, false⟩, 21, 10, 5, 0, 0, 0, 0⟩
   [x, { x with sub := 1 }].map .plcUpd),
  (let x : MW := ⟨⟨false, false, true, false⟩, 0, 21, 0, 0, 9, 3, 0⟩
   [x, { x with d := 1 }, { x with b := 1 }, { x with sc := 4 }, { x with ofs := 1 }].map .chnBeg),
  (let x : MW := ⟨⟨false, false, true, false⟩, 0, 0, 0, 0, 0, 0, 0⟩
   [x, { x with d := 1 }, { x with a := 1 }, { x with b := 1 }, { x with sub := 1 }, { x with oc := 1 }].map .chnEnd),
  (let x : MW := ⟨⟨false, false, true, false⟩, 22, 10, 5, 1, 0, 0, 0⟩
   [x, { x with d := 21 }, { x with d := 0 }, { x with sub := 2 }, { x with oc := 1 }].map .crmProm),
  (let x : MW := ⟨⟨false, false, true, false⟩, 22, 10, 0, 1, 0, 0, 0⟩
   [x, { x with b := 1 }, { x with sub := 2 }].map .crmDem)]
theorem test_wf_illFormedW1 : (illFormedW1.all fun xs => (xs.headD .halt).wf && (xs.drop 1).all fun i => !i.wf) = true := by decide +kernel

/-! ### Words and their instructions -/

/-- X short words by R26, R35 to R37 and R39, with their instructions. -/
def wordsXShort0 : List (Nat × Instr) := [
  (0x2AA28, .add 21 10 5),
  (0x6AA28, .sub 21 10 5),
  (0xAAA28, .mul 21 10 5),
  (0xEAA28, .mulh 21 10 5),
  (0xEAA29, .mulhU 21 10 5),
  (0x12AA28, .div 21 10 5),
  (0x12AA29, .divU 21 10 5),
  (0x16AA28, .rem 21 10 5),
  (0x16AA29, .remU 21 10 5),
  (0x1AAA28, .and 21 10 5),
  (0x1EAA28, .or 21 10 5),
  (0x22AA28, .xor 21 10 5),
  (0x26AA28, .andn 21 10 5),
  (0x2AAA28, .shl 21 10 5),
  (0x2EAA28, .shr 21 10 5),
  (0x32AA28, .shra 21 10 5),
  (0x36AA28, .rot 21 10 5),
  (0x3AAA28, .min 21 10 5),
  (0x3AAA29, .minU 21 10 5),
  (0x3EAA28, .max 21 10 5),
  (0x3EAA29, .maxU 21 10 5),
  (0x42AA00, .clz 21 10),
  (0x46AA00, .ctz 21 10),
  (0x4AAA00, .popc 21 10)]
theorem test_decode_wordsXShort0 : (wordsXShort0.all fun x => decide (decodeTableWord 32 x.1 = some x.2) && x.2.wf) = true := by decide +kernel
/-- X short words by R26, R35 to R37 and R39, with their instructions. -/
def wordsXShort1 : List (Nat × Instr) := [
  (0x4EAA00, .brev 21 10),
  (0x52AA2B, .sext 21 10 43),
  (0x56AA2B, .zext 21 10 43),
  (0x5AAA28, .cmp .eq 21 10 5),
  (0x5AAA29, .cmp .ne 21 10 5),
  (0x5AAA2A, .cmp .lt 21 10 5),
  (0x5AAA2B, .cmp .ge 21 10 5),
  (0x5AAA2C, .cmp .ltu 21 10 5),
  (0x5AAA2D, .cmp .geu 21 10 5),
  (0x5AAA2E, .cmp .tst 21 10 5),
  (0x5EAA28, .sel 21 10 5),
  (0x62AA28, .clmul 21 10 5),
  (0x62AA29, .clmulHi 21 10 5),
  (0x66AAA5, .addi 21 10 0xA5),
  (0x6AAAA5, .andi 21 10 0xA5),
  (0x6EAAA5, .ori 21 10 0xA5),
  (0x72AAA5, .xori 21 10 0xA5),
  (0x76AA2B, .shli 21 10 43),
  (0x7AAA2B, .shri 21 10 43),
  (0x7EAA2B, .shrai 21 10 43),
  (0x82AA28, .padd .w1 21 10 5),
  (0x82AA29, .padd .w3 21 10 5),
  (0x82AA2A, .padd .w4 21 10 5),
  (0x82AA2B, .padd .w6 21 10 5)]
theorem test_decode_wordsXShort1 : (wordsXShort1.all fun x => decide (decodeTableWord 32 x.1 = some x.2) && x.2.wf) = true := by decide +kernel
/-- X short words by R26, R35 to R37 and R39, with their instructions. -/
def wordsXShort2 : List (Nat × Instr) := [
  (0x82AA2C, .padd .w8 21 10 5),
  (0x82AA2D, .padd .w16 21 10 5),
  (0x82AA2E, .padd .w32 21 10 5),
  (0x82AA2F, .padd .w64 21 10 5),
  (0x86AA2D, .pdiff .w16 21 10 5),
  (0x8AAA2B, .paln 21 10 43),
  (0x8AAA6B, .palnUp 21 10 43),
  (0x8EAA00, .btob 21 10),
  (0x8EAA01, .btobUp 21 10),
  (0x92AA28, .byte 21 10 5),
  (0x96AA2D, .pchk .w16 21 10 5),
  (0x9AAA53, .csrr 21 0xA53),
  (0x9EAA53, .csrw 21 0xA53),
  (0xA2AA53, .csrs 21 0xA53),
  (0xA6AA53, .csrc 21 0xA53),
  (0xA80015, .ret 21),
  (0xAC0000, .hop),
  (0xB00000, .step),
  (0xB40000, .endTask),
  (0xB800A5, .trap 0xA5),
  (0xBC0000, .nop),
  (0xC000A5, .sysc 0xA5),
  (0xC40000, .eret),
  (0xCAA002, .fltr 21 2)]
theorem test_decode_wordsXShort2 : (wordsXShort2.all fun x => decide (decodeTableWord 32 x.1 = some x.2) && x.2.wf) = true := by decide +kernel
/-- X short words by R26, R35 to R37 and R39, with their instructions. -/
def wordsXShort3 : List (Nat × Instr) := [
  (0xCAA005, .fltrClr 21 1),
  (0xCC0000, .halt)]
theorem test_decode_wordsXShort3 : (wordsXShort3.all fun x => decide (decodeTableWord 32 x.1 = some x.2) && x.2.wf) = true := by decide +kernel
/-- X long words by R26, R35 to R37 and R39, with their instructions. -/
def wordsXLong : List (Nat × Instr) := [
  (0xDABCDEF0102A000, .li 21 0x1ABCDEF),
  (0xDABCDEF0106A000, .lis 21 0x1ABCDEF),
  (0xDABCDEF0112A000, .call 21 0x1ABCDEF),
  (0xDABCDEF0116A000, .loop 21 0x1ABCDEF),
  (0xDABCDEF01080000, .br 0x1ABCDEF),
  (0xDABCDEF01180000, .loopk 0x1ABCDEF),
  (0xDABCDEF010EAA00, .brc .eq 21 10 0x1ABCDEF),
  (0xDABCDEF010EAA01, .brc .ne 21 10 0x1ABCDEF),
  (0xDABCDEF010EAA02, .brc .lt 21 10 0x1ABCDEF),
  (0xDABCDEF010EAA03, .brc .ge 21 10 0x1ABCDEF),
  (0xDABCDEF010EAA04, .brc .ltu 21 10 0x1ABCDEF),
  (0xDABCDEF010EAA05, .brc .geu 21 10 0x1ABCDEF),
  (0xDABCDEF010EAA06, .brc .tst 21 10 0x1ABCDEF),
  (0xC000000011EAA05, .ctxsv 21 10 5),
  (0xC0000000122AA05, .ctxrs 21 10 5),
  (0xC0000000126AA05, .xlinv 21 10 5),
  (0xC000000012AAA00, .bindq 21 10),
  (0xC000000012EAA00, .tierq 21 10)]
theorem test_decode_wordsXLong : (wordsXLong.all fun x => decide (decodeTableWord 64 x.1 = some x.2) && x.2.wf) = true := by decide +kernel
/-- F words by R26, R35 to R37 and R39, with their instructions. -/
def wordsF : List (Nat × Instr) := [
  (0xD2CABCD9301B530, .fld ⟨⟨true, false, false, true⟩, 13, 21, 6, 0, 9, 3, 43981⟩),
  (0xD2C00009306AA31, .fldv ⟨⟨true, false, false, true⟩, 21, 10, 6, 1, 9, 3, 0⟩),
  (0xC02ABCD930AAA05, .fldk ⟨⟨true, false, false, true⟩, 21, 10, 0, 5, 0, 0, 175053⟩),
  (0xD2EABCD930EAA2B, .lds ⟨⟨true, false, false, true⟩, 21, 10, 43, 9, 3, 175053⟩),
  (0xD2C2BCD9311B530, .fgath ⟨⟨true, false, false, true⟩, 13, 21, 6, 0, 9, 3, 11213⟩),
  (0xD2C00009314D500, .wset ⟨⟨true, false, false, true⟩, 6, 21, 0, 0, 9, 3, 0⟩),
  (0xD2C00009318D500, .wadv ⟨⟨true, false, false, true⟩, 6, 21, 0, 0, 9, 3, 0⟩),
  (0xC000000931C1550, .pref ⟨⟨true, false, false, true⟩, 0, 21, 10, 0, 0, 0, 0⟩),
  (0xC000000931ECA29, .prefArr ⟨⟨true, false, false, true⟩, 22, 10, 5, 1, 0, 0, 0⟩),
  (0xD2C00009320D500, .gset ⟨⟨true, false, false, true⟩, 6, 21, 0, 0, 9, 3, 0⟩),
  (0xC0000009325AAA8, .xcpy ⟨⟨true, false, false, true⟩, 13, 10, 21, 0, 0, 0, 0⟩),
  (0xD2C05A593281550, .fldw ⟨⟨true, false, false, true⟩, 0, 21, 10, 0, 9, 3, 1445⟩),
  (0xC000000932EAA28, .bwait ⟨⟨true, false, false, true⟩, 21, 10, 5, 0, 0, 0, 0⟩),
  (0xC08ABCD9332AA2E, .fenceF ⟨⟨true, false, false, true⟩, 21, 10, 5, 6, 0, 2, 43981⟩),
  (0xD2C00019336AA28, .attp ⟨⟨true, false, false, true⟩, 21, 10, 5, 0, 9, 3, 1⟩),
  (0xD2C0001933AAA28, .attl ⟨⟨true, false, false, true⟩, 21, 10, 5, 0, 9, 3, 1⟩),
  (0xD2C0000933EAA28, .strSeek ⟨⟨true, false, false, true⟩, 21, 10, 5, 0, 9, 3, 0⟩),
  (0xC0000009342A000, .chnNxt ⟨⟨true, false, false, true⟩, 21, 0, 0, 0, 0, 0, 0⟩)]
theorem test_decode_wordsF : (wordsF.all fun x => decide (decodeTableWord 64 x.1 = some x.2) && x.2.wf) = true := by decide +kernel
/-- M words by R26, R35 to R37 and R39, with their instructions. -/
def wordsM : List (Nat × Instr) := [
  (0xD3958006500CA28, .mma ⟨⟨false, true, true, false⟩, 6, 10, 5, 0, 9, true, 18, .mk4, 0, false, 0⟩),
  (0xD3940006504CA28, .mmai ⟨⟨false, true, true, false⟩, 6, 10, 5, 0, 9, true, 18, .n8, 0, false, 0⟩),
  (0xD3000006508D500, .mmv ⟨⟨false, true, true, false⟩, 6, 21, 0, 0, 9, true, 0, .f32, 0, false, 0⟩),
  (0xD300000650CC000, .mz ⟨⟨false, true, true, false⟩, 6, 0, 0, 0, 9, true, 0, .f32, 0, false, 0⟩),
  (0xD3003006510D501, .macc ⟨⟨false, true, true, false⟩, 6, 21, 0, 1, 9, true, 0, .f32, 3, false, 0⟩),
  (0xC00000065140AA9, .mwcp ⟨⟨false, true, true, false⟩, 0, 10, 21, 1, 0, false, 0, .f32, 0, false, 0⟩),
  (0xC00000065181500, .mwclr ⟨⟨false, true, true, false⟩, 0, 21, 0, 0, 0, false, 0, .f32, 0, false, 0⟩)]
theorem test_decode_wordsM : (wordsM.all fun x => decide (decodeTableWord 64 x.1 = some x.2) && x.2.wf) = true := by decide +kernel
/-- V words by R26, R35 to R37 and R39, with their instructions. -/
def wordsV0 : List (Nat × Instr) := [
  (0xD300B80C702AA28, .vadd ⟨⟨true, true, false, false⟩, 21, 10, 5, 0, 9, true, 0, .bf16, 3, true, 0⟩),
  (0xD300B80C706AA28, .vsub ⟨⟨true, true, false, false⟩, 21, 10, 5, 0, 9, true, 0, .bf16, 3, true, 0⟩),
  (0xD300B80C70AAA28, .vmul ⟨⟨true, true, false, false⟩, 21, 10, 5, 0, 9, true, 0, .bf16, 3, true, 0⟩),
  (0xD391480C70EAA28, .vfma ⟨⟨true, true, false, false⟩, 21, 10, 5, 0, 9, true, 18, .f16, 4, true, 0⟩),
  (0xD307000C712AA28, .vmin ⟨⟨true, true, false, false⟩, 21, 10, 5, 0, 9, true, 0, .n64, 0, false, 0⟩),
  (0xD307000C716AA28, .vmax ⟨⟨true, true, false, false⟩, 21, 10, 5, 0, 9, true, 0, .n64, 0, false, 0⟩),
  (0xD302880C71AAA00, .vabs ⟨⟨true, true, false, false⟩, 21, 10, 0, 0, 9, true, 0, .i16, 0, true, 0⟩),
  (0xD302880C71EAA00, .vneg ⟨⟨true, true, false, false⟩, 21, 10, 0, 0, 9, true, 0, .i16, 0, true, 0⟩),
  (0xD300000C722AA00, .vrcp ⟨⟨true, true, false, false⟩, 21, 10, 0, 0, 9, true, 0, .f32, 0, false, 0⟩),
  (0xD300000C726AA00, .vrsq ⟨⟨true, true, false, false⟩, 21, 10, 0, 0, 9, true, 0, .f32, 0, false, 0⟩),
  (0xD300200C72AAA28, .vrefr ⟨⟨true, true, false, false⟩, 21, 10, 5, 0, 9, true, 0, .f32, 2, false, 0⟩),
  (0xD300200C72EAA28, .vrefq ⟨⟨true, true, false, false⟩, 21, 10, 5, 0, 9, true, 0, .f32, 2, false, 0⟩),
  (0xD301100C732AA00, .vexp2 ⟨⟨true, true, false, false⟩, 21, 10, 0, 0, 9, true, 0, .f16, 1, false, 0⟩),
  (0xD301100C736AA00, .vlog2 ⟨⟨true, true, false, false⟩, 21, 10, 0, 0, 9, true, 0, .f16, 1, false, 0⟩),
  (0xD301100C73AAA00, .vtanh ⟨⟨true, true, false, false⟩, 21, 10, 0, 0, 9, true, 0, .f16, 1, false, 0⟩),
  (0xD304080C742AA28, .viadd ⟨⟨true, true, false, false⟩, 21, 10, 5, 0, 9, true, 0, .n8, 0, true, 0⟩),
  (0xD304080C746AA28, .visub ⟨⟨true, true, false, false⟩, 21, 10, 5, 0, 9, true, 0, .n8, 0, true, 0⟩),
  (0xD306800C74AAA29, .vimul ⟨⟨true, true, false, false⟩, 21, 10, 5, 1, 9, true, 0, .i64, 0, false, 0⟩),
  (0xD300000C74EAA28, .vand ⟨⟨true, true, false, false⟩, 21, 10, 5, 0, 9, true, 0, .f32, 0, false, 0⟩),
  (0xD300000C752AA28, .vor ⟨⟨true, true, false, false⟩, 21, 10, 5, 0, 9, true, 0, .f32, 0, false, 0⟩),
  (0xD300000C756AA28, .vxor ⟨⟨true, true, false, false⟩, 21, 10, 5, 0, 9, true, 0, .f32, 0, false, 0⟩),
  (0xD301800C75AAA28, .vshl ⟨⟨true, true, false, false⟩, 21, 10, 5, 0, 9, true, 0, .i32, 0, false, 0⟩),
  (0xD30304DC75EAA00, .vshr ⟨⟨true, true, false, false⟩, 21, 10, 0, 0, 9, true, 0, .n16, 0, false, 77⟩),
  (0xD30686BC762AA00, .vshra ⟨⟨true, true, false, false⟩, 21, 10, 0, 0, 9, true, 0, .i64, 0, false, 107⟩)]
theorem test_decode_wordsV0 : (wordsV0.all fun x => decide (decodeTableWord 64 x.1 = some x.2) && x.2.wf) = true := by decide +kernel
/-- V words by R26, R35 to R37 and R39, with their instructions. -/
def wordsV1 : List (Nat × Instr) := [
  (0xD302000C766AA29, .vclmul ⟨⟨true, true, false, false⟩, 21, 10, 5, 1, 9, true, 0, .n32, 0, false, 0⟩),
  (0xD300800C769AA2E, .vcmp ⟨⟨true, true, false, false⟩, 13, 10, 5, 6, 9, true, 0, .bf16, 0, false, 0⟩),
  (0xD370000C76EAA28, .vselp ⟨⟨true, true, false, false⟩, 21, 10, 5, 0, 9, true, 14, .f32, 0, false, 0⟩),
  (0xD305D8BC772AA00, .vcvt ⟨⟨true, true, false, false⟩, 21, 10, 0, 0, 9, true, 0, .mk4, 5, true, 11⟩),
  (0xD395500C776AA00, .vqnt ⟨⟨true, true, false, false⟩, 21, 10, 0, 0, 9, true, 18, .mk6, 5, false, 0⟩),
  (0xD300002C77AAA00, .vhad ⟨⟨true, true, false, false⟩, 21, 10, 0, 0, 9, true, 0, .f32, 0, false, 2⟩),
  (0xD30004DC782AA00, .vrotr ⟨⟨true, true, false, false⟩, 21, 10, 0, 0, 9, true, 0, .f32, 0, false, 77⟩),
  (0xD30006BC786AA00, .vrotc ⟨⟨true, true, false, false⟩, 21, 10, 0, 0, 9, true, 0, .f32, 0, false, 107⟩),
  (0xD300000C78AAA28, .vbcr ⟨⟨true, true, false, false⟩, 21, 10, 5, 0, 9, true, 0, .f32, 0, false, 0⟩),
  (0xD30007FC78EAA00, .vbcc ⟨⟨true, true, false, false⟩, 21, 10, 0, 0, 9, true, 0, .f32, 0, false, 127⟩),
  (0xD30400DC792AA00, .vredr ⟨⟨true, true, false, false⟩, 21, 10, 0, 0, 9, true, 0, .n8, 0, false, 13⟩),
  (0xD302888C796AA00, .vredc ⟨⟨true, true, false, false⟩, 21, 10, 0, 0, 9, true, 0, .i16, 0, true, 8⟩),
  (0xD300012C79AAA00, .vscnr ⟨⟨true, true, false, false⟩, 21, 10, 0, 0, 9, true, 0, .f32, 0, false, 18⟩),
  (0xD301814C79EAA00, .vscnc ⟨⟨true, true, false, false⟩, 21, 10, 0, 0, 9, true, 0, .i32, 0, false, 20⟩),
  (0xD300000C7A2AA00, .vtrn ⟨⟨true, true, false, false⟩, 21, 10, 0, 0, 9, true, 0, .f32, 0, false, 0⟩),
  (0xD300000C7A6AA00, .vcomp ⟨⟨true, true, false, false⟩, 21, 10, 0, 0, 9, true, 0, .f32, 0, false, 0⟩),
  (0xD300000C7B2AA00, .vmov ⟨⟨true, true, false, false⟩, 21, 10, 0, 0, 9, true, 0, .f32, 0, false, 0⟩),
  (0xD300000C7B6A700, .vmovz ⟨⟨true, true, false, false⟩, 21, 7, 0, 0, 9, true, 0, .f32, 0, false, 0⟩),
  (0xD29306BC7A9AA00, .vtopk ⟨⟨true, true, false, false⟩, 13, 10, 0, 0, 9, false, 18, .n16, 0, false, 107⟩),
  (0xD300000C7AEA002, .viota ⟨⟨true, true, false, false⟩, 21, 0, 0, 2, 9, true, 0, .f32, 0, false, 0⟩),
  (0xC007000C7BAAA28, .vmovs ⟨⟨true, true, false, false⟩, 21, 10, 5, 0, 0, false, 0, .n64, 0, false, 0⟩),
  (0xD306000C7BEAA00, .vbcs ⟨⟨true, true, false, false⟩, 21, 10, 0, 0, 9, true, 0, .mk3, 0, false, 0⟩),
  (0xD304D80C7C2AA28, .vldb ⟨⟨true, true, false, false⟩, 21, 10, 5, 0, 9, true, 0, .mk8, 5, true, 0⟩),
  (0xD203800C7C5AA28, .vstb ⟨⟨true, true, false, false⟩, 13, 10, 5, 0, 9, false, 0, .i8, 0, false, 0⟩)]
theorem test_decode_wordsV1 : (wordsV1.all fun x => decide (decodeTableWord 64 x.1 = some x.2) && x.2.wf) = true := by decide +kernel
/-- V words by R26, R35 to R37 and R39, with their instructions. -/
def wordsV2 : List (Nat × Instr) := [
  (0xD300000C7C9AA28, .pand ⟨⟨true, true, false, false⟩, 13, 10, 5, 0, 9, true, 0, .f32, 0, false, 0⟩),
  (0xD300000C7CDAA28, .por ⟨⟨true, true, false, false⟩, 13, 10, 5, 0, 9, true, 0, .f32, 0, false, 0⟩),
  (0xD300000C7D1AA28, .pxor ⟨⟨true, true, false, false⟩, 13, 10, 5, 0, 9, true, 0, .f32, 0, false, 0⟩),
  (0xD300000C7D5AA00, .pnot ⟨⟨true, true, false, false⟩, 13, 10, 0, 0, 9, true, 0, .f32, 0, false, 0⟩),
  (0xD300001C7D9A000, .pset ⟨⟨true, true, false, false⟩, 13, 0, 0, 0, 9, true, 0, .f32, 0, false, 1⟩),
  (0xD300000C7DEAA01, .pcnt ⟨⟨true, true, false, false⟩, 21, 10, 0, 1, 9, true, 0, .f32, 0, false, 0⟩),
  (0xD300000C7E2AA01, .pfrst ⟨⟨true, true, false, false⟩, 21, 10, 0, 1, 9, true, 0, .f32, 0, false, 0⟩),
  (0xC000000C7E6AA00, .ppack ⟨⟨true, true, false, false⟩, 21, 10, 0, 0, 0, false, 0, .f32, 0, false, 0⟩),
  (0xC000000C7E9AA00, .punpk ⟨⟨true, true, false, false⟩, 13, 10, 0, 0, 0, false, 0, .f32, 0, false, 0⟩),
  (0xD390000C7EEA001, .atmrg ⟨⟨true, true, false, false⟩, 21, 0, 0, 1, 9, true, 18, .f32, 0, false, 0⟩)]
theorem test_decode_wordsV2 : (wordsV2.all fun x => decide (decodeTableWord 64 x.1 = some x.2) && x.2.wf) = true := by decide +kernel
/-- W words by R26, R35 to R37 and R39, with their instructions. -/
def wordsW0 : List (Nat × Instr) := [
  (0xC04ABCD2926AA2C, .fenceW ⟨⟨false, false, true, false⟩, 21, 10, 5, 4, 0, 1, 43981⟩),
  (0xD2CABCD2901B530, .fst ⟨⟨false, false, true, false⟩, 13, 21, 6, 0, 9, 3, 43981⟩),
  (0xD2C00002906AA30, .fstv ⟨⟨false, false, true, false⟩, 21, 10, 6, 0, 9, 3, 0⟩),
  (0xD2EABCD290AAA3F, .sts ⟨⟨false, false, true, false⟩, 21, 10, 63, 9, 3, 175053⟩),
  (0xD2C2BCD290DB530, .fscat ⟨⟨false, false, true, false⟩, 13, 21, 6, 0, 9, 3, 11213⟩),
  (0xD2C00692912AA28, .atom ⟨⟨false, false, true, false⟩, 21, 10, 5, 0, 9, 3, 105⟩),
  (0xC0000022915AA28, .red ⟨⟨false, false, true, false⟩, 13, 10, 5, 0, 0, 0, 2⟩),
  (0xC000000291AAA2D, .copy ⟨⟨false, false, true, false⟩, 21, 10, 5, 5, 0, 0, 0⟩),
  (0xC000000291C1500, .publ ⟨⟨false, false, true, false⟩, 0, 21, 0, 0, 0, 0, 0⟩),
  (0xC00000029301500, .mgrp ⟨⟨false, false, true, false⟩, 0, 21, 0, 0, 0, 0, 0⟩),
  (0xC00000029201550, .shad ⟨⟨false, false, true, false⟩, 0, 21, 10, 0, 0, 0, 0⟩),
  (0xC000000293C1550, .invl ⟨⟨false, false, true, false⟩, 0, 21, 10, 0, 0, 0, 0⟩),
  (0xC00000029481550, .strPin ⟨⟨false, false, true, false⟩, 0, 21, 10, 0, 0, 0, 0⟩),
  (0xC000000294C1550, .strRel ⟨⟨false, false, true, false⟩, 0, 21, 10, 0, 0, 0, 0⟩),
  (0xC000000292AAA00, .bini ⟨⟨false, false, true, false⟩, 21, 10, 0, 0, 0, 0, 0⟩),
  (0xC000000292EAA00, .barr ⟨⟨false, false, true, false⟩, 21, 10, 0, 0, 0, 0, 0⟩),
  (0xC0000002966AA00, .plcApp ⟨⟨false, false, true, false⟩, 21, 10, 0, 0, 0, 0, 0⟩),
  (0xC00000129341551, .mrow ⟨⟨false, false, true, false⟩, 0, 21, 10, 1, 0, 0, 1⟩),
  (0xC000000293AA000, .mcmt ⟨⟨false, false, true, false⟩, 21, 0, 0, 0, 0, 0, 0⟩),
  (0xD2C000029401552, .attf ⟨⟨false, false, true, false⟩, 0, 21, 10, 2, 9, 3, 0⟩),
  (0xD2C00002946AA00, .strDep ⟨⟨false, false, true, false⟩, 21, 10, 0, 0, 9, 3, 0⟩),
  (0xC0000002952AA28, .strDrop ⟨⟨false, false, true, false⟩, 21, 10, 5, 0, 0, 0, 0⟩),
  (0xC000000296AAA28, .plcUpd ⟨⟨false, false, true, false⟩, 21, 10, 5, 0, 0, 0, 0⟩),
  (0xD2C000029541500, .chnBeg ⟨⟨false, false, true, false⟩, 0, 21, 0, 0, 9, 3, 0⟩)]
theorem test_decode_wordsW0 : (wordsW0.all fun x => decide (decodeTableWord 64 x.1 = some x.2) && x.2.wf) = true := by decide +kernel
/-- W words by R26, R35 to R37 and R39, with their instructions. -/
def wordsW1 : List (Nat × Instr) := [
  (0xC00000029580000, .chnEnd ⟨⟨false, false, true, false⟩, 0, 0, 0, 0, 0, 0, 0⟩),
  (0xC000000295ECA29, .crmProm ⟨⟨false, false, true, false⟩, 22, 10, 5, 1, 0, 0, 0⟩),
  (0xC0000002962CA01, .crmDem ⟨⟨false, false, true, false⟩, 22, 10, 0, 1, 0, 0, 0⟩)]
theorem test_decode_wordsW1 : (wordsW1.all fun x => decide (decodeTableWord 64 x.1 = some x.2) && x.2.wf) = true := by decide +kernel

def wb : Toks := ⟨true, false, false, false⟩
def sa : Toks := ⟨false, false, false, true⟩

/-- Words that the specification prints beside their lines, in its tables of chapters 02, 03 and 20. -/
def printedX : List (Nat × Instr) := [
  (0x00006428, .add 3 4 5), (0x0064E7FF, .addi 7 7 0xFF), (0x0C12345601012000, .li 9 0x123456), (0x00986011, .csrr 3 0x11), (0x009C8011, .csrw 4 0x11),
  (0x0058221A, .cmp .lt 1 2 3), (0x000C2219, .mulhU 1 2 3), (0x0050850B, .sext 4 5 11), (0x007C8503, .shrai 4 5 3), (0x0DA4F87B01052000, .lis 9 0x1A4F87B),
  (0x0DFFFFFA010C6402, .brc .lt 3 4 0x1FFFFFA), (0x0C0000140113E000, .call 31 20), (0x00A8001F, .ret 31), (0x0DFFFFFC01180000, .loopk 0x1FFFFFC), (0x0DFFFFF80115E000, .loop 15 0x1FFFFF8),
  (0x00AC0000, .hop), (0x00B40000, .endTask), (0x00C00007, .sysc 7), (0x00C40000, .eret), (0x00C88006, .fltrClr 4 2), (0x00CC0000, .halt),
  (0x0C000000011CA607, .ctxsv 5 6 7), (0x0C00000001244304, .xlinv 2 3 4)]

theorem test_decode_printedX : (printedX.all fun x => decide (decodeTableWord 64 x.1 = some x.2)) = true := by decide +kernel

/-- Words that the specification prints beside their lines, in its tables of chapters 02, 06, 09 to 11, 13, 16, 17 and 21. -/
def printedEngines : List (Nat × Instr) := [
  (0x0C70000097008530, .vadd ⟨⟨true, false, false, true⟩, 4, 5, 6, 0, 3, true, 0, .f32, 0, false, 0⟩), (0x0C47FFC0030CA61F, .lds ⟨off, 5, 6, 31, 2, 1, 0x3FFC0⟩),
  (0x0C24004003004618, .fld ⟨off, 2, 6, 3, 0, 1, 1, 0x40⟩), (0x0C0000008304E609, .fldv ⟨wb, 7, 6, 1, 1, 0, 0, 0⟩), (0x0C0000000909090B, .sts ⟨off, 8, 9, 11, 0, 0, 0⟩),
  (0x0C08006009102218, .atom ⟨off, 1, 2, 3, 0, 0, 2, 0x60⟩), (0x0C08000409240008, .fenceW ⟨off, 0, 0, 1, 0, 0, 2, 4⟩), (0x0C00000009198D71, .copy ⟨off, 12, 13, 14, 1, 0, 0, 0⟩),
  (0x0C00000109340A59, .mrow ⟨off, 0, 10, 11, 1, 0, 0, 1⟩), (0x0C03D80005000208, .mma ⟨off, 0, 2, 1, 0, 0, false, 7, .mk4, 0, false, 0⟩),
  (0x0C64B80005044400, .mmai ⟨off, 2, 4, 0, 0, 3, false, 9, .i8, 0, false, 0⟩), (0x0C00000005102601, .macc ⟨off, 1, 6, 0, 1, 0, false, 0, .f32, 0, false, 0⟩),
  (0x0C405D0007710900, .vcvt ⟨off, 8, 9, 0, 0, 2, false, 0, .mk4, 5, false, 0⟩), (0x0C05804F07A8AA00, .vtopk ⟨off, 5, 10, 0, 0, 0, false, 11, .f32, 0, false, 0x4F⟩),
  (0x0C00000307D90000, .pset ⟨off, 8, 0, 0, 0, 0, false, 0, .f32, 0, false, 3⟩), (0x0C00201507986300, .vscnr ⟨off, 3, 3, 0, 0, 0, false, 0, .n32, 0, false, 0x15⟩),
  (0x0C00000017E1A201, .pfrst ⟨sa, 13, 2, 0, 1, 0, false, 0, .f32, 0, false, 0⟩), (0x0C080001833505 * 256 + 0x48, .attp ⟨wb, 8, 5, 9, 0, 0, 2, 1⟩),
  (0x0C40000009400C69, .attf ⟨off, 0, 12, 13, 1, 2, 0, 0⟩), (0x0C00000009516C68, .strDrop ⟨off, 11, 12, 13, 0, 0, 0, 0⟩), (0x0C000000195ED4A9, .crmProm ⟨sa, 22, 20, 21, 1, 0, 0, 0⟩),
  (0x0C00000089148F00, .red ⟨wb, 4, 15, 0, 0, 0, 0, 0⟩), (0x0C00000013280500, .fldw ⟨sa, 0, 5, 0, 0, 0, 0, 0⟩)]

theorem test_decode_printedEngines : (printedEngines.all fun x => decide (decodeTableWord 64 x.1 = some x.2)) = true := by decide +kernel

/-- One word for each check of R40, with the sub-cause of the first check that fails. -/
theorem test_decode_illegalWords :
    decodeWords (5 * 2 ^ 25) 0 = .error .reservedTag ∧ decodeWords (7 * 2 ^ 25) 0 = .error .reservedTag ∧ decodeWords (6 * 2 ^ 25) 0 = .error .strayContinuation ∧
    decodeWords (2 ^ 28) 0 = .error .tokenBitsOnX ∧ decodeWords (3 * 2 ^ 25) 0 = .error .shortWord ∧ decodeWords (3 * 2 ^ 25 + 2 ^ 24) 0 = .error .malformedContinuation ∧
    decodeWords (0x34 * 2 ^ 18) 0 = .error .unassignedOp ∧ decodeWords (2 ^ 24 + 0x0C * 2 ^ 18) (6 * 2 ^ 25) = .error .unassignedOp ∧
    decodeWords (3 * 2 ^ 25 + 2 ^ 24 + 0x0F * 2 ^ 18) (6 * 2 ^ 25) = .error .unassignedOp ∧ decodeWords (4 * 2 ^ 25 + 2 ^ 24 + 0x1B * 2 ^ 18) (6 * 2 ^ 25) = .error .unassignedOp ∧
    decodeWords (0x16 * 2 ^ 18 + 7) 0 = .error .reservedField ∧ decodeWords (0x2B * 2 ^ 18 + 1) 0 = .error .reservedField ∧ decodeWords (0x1D * 2 ^ 18 + 64) 0 = .error .reservedField ∧
    decodeWords (2 ^ 24 + 256) (6 * 2 ^ 25) = .error .reservedField ∧ decodeWords (3 * 2 ^ 25 + 2 ^ 24) (6 * 2 ^ 25 + 2 ^ 15) = .error .reservedField := by decide +kernel

/-! ### Steps -/

/-- The instruction ends in a next state of which p holds. -/
def after (i : Instr) (s : State) (p : State → Bool) : Bool := match exec i s with | .next t => p t | _ => false

/-- Register 3 of F's copy after an instruction that reads registers 1 and 2. -/
def result (i : Instr) (a b : Word) : Word :=
  match exec i ((bare .f).withReg 1 a |>.withReg 2 b) with | .next t => t.me.getS .f 3 | _ => 0xDEAD

/-- The step fetches and runs the word: what p asks holds of the next state. -/
def ran (nbits w : Nat) (p : State → Bool) : Bool := match step (State.reset.withFetchWord nbits w) with | .next t => p t | _ => false

/-- R71: wrapping, signed high products, division by 0 and of the least number by −1, amounts modulo 64. -/
theorem test_scalar_arithmetic :
    result (.add 3 1 2) (2 ^ 64 - 1) 2 = 1 ∧ result (.mulh 3 1 2) (2 ^ 64 - 1) 5 = 2 ^ 64 - 1 ∧ result (.mulhU 3 1 2) (2 ^ 64 - 1) 5 = 4 ∧
    result (.div 3 1 2) (2 ^ 64 - 7) 2 = 2 ^ 64 - 3 ∧ result (.rem 3 1 2) (2 ^ 64 - 7) 2 = 2 ^ 64 - 1 ∧ result (.div 3 1 2) 9 0 = 2 ^ 64 - 1 ∧ result (.remU 3 1 2) 9 0 = 9 ∧
    result (.div 3 1 2) (2 ^ 63) (2 ^ 64 - 1) = 2 ^ 63 ∧ result (.rem 3 1 2) (2 ^ 63) (2 ^ 64 - 1) = 0 ∧ result (.shra 3 1 2) (2 ^ 63) 67 = 0xF000000000000000 ∧
    result (.rot 3 1 2) 1 1 = 2 ^ 63 ∧ result (.min 3 1 2) (2 ^ 64 - 1) 1 = 2 ^ 64 - 1 ∧ result (.minU 3 1 2) (2 ^ 64 - 1) 1 = 1 ∧ result (.clz 3 1) 0 0 = 64 ∧
    result (.sext 3 1 11) 0x800 0 = 0xFFFFFFFFFFFFF800 ∧ result (.zext 3 1 11) 0xF800 0 = 0x800 ∧ result (.addi 3 1 0xFF) 0 0 = 2 ^ 64 - 1 ∧
    result (.clmul 3 1 2) 3 3 = 5 ∧ result (.clmulHi 3 1 2) (2 ^ 63) 2 = 1 ∧ result (.cmp .lt 3 1 2) (2 ^ 63) 0 = 1 ∧ result (.cmp .ltu 3 1 2) (2 ^ 63) 0 = 0 := by
  decide +kernel

/-- The table after R73: LI and two LIS build 0x5DEE_CE66_D1A4_F87B. -/
theorem test_lis_builds_constant :
    result (.li 3 0x177B) 0 0 = 0x177B ∧ after (.lis 9 0x1673368) ((bare .f).withReg 9 0x177B) (fun t => t.me.getS .f 9 == 0x2EF7673368) = true ∧
    after (.lis 9 0x1A4F87B) ((bare .f).withReg 9 0x2EF7673368) (fun t => t.me.getS .f 9 == 0x5DEECE66D1A4F87B) = true := by decide +kernel

/-- The first pass of the table after R82: LOOPK is taken, LC falls to 1, RRB to 15, p8 is filled and p9 takes p8's old value. -/
theorem test_loopk_first_pass :
    (let s := (bare .v).setMe { (bare .v).me with csr := [(512 + 19, 2), (512 + 20, 2)] }
     after (.loopk 0x1FFFFFC) s fun t => t.me.csr.get 0 531 == 1 && t.me.csr.get 0 532 == 2 && t.me.csr.get 0 530 == 15) = true := by decide +kernel

/-- The examples of R138: 0xC0_0000 and 0x3C0_0000 lie in slice 48, rows 0 and 1 of bank 0, and 0xC1_0000 in bank 8. -/
theorem test_address_map :
    sliceOf 0xC00000 = 48 ∧ rowOf 0xC00000 = rowKey 48 0 0 0 ∧ sliceOf 0x3C00000 = 48 ∧ localLine 0x3C00000 = 2048 ∧ rowOf 0x3C00000 = rowKey 48 0 0 1 ∧
    localLine 0xC10000 = 512 ∧ rowOf 0xC10000 = rowKey 48 0 8 0 := by decide +kernel

/-- The example of R56: the MK4 codes 4, 2, 15 and 1 stand for 1, 0.25, −3.25 and 0.0625. -/
theorem test_mk4_values :
    (valOf .mk4 4).same Val.one = true ∧ (valOf .mk4 2).same (.fin false 1 4) = true ∧ (valOf .mk4 15).same (.fin true 13 4) = true ∧ (valOf .mk4 1).same (.fin false 1 16) = true := by
  decide +kernel

/-- The example of R239: a block with 1.0 in column 0 becomes 1.0 in all columns, and 2^−5 with `.s5`. -/
theorem test_hadamard :
    (hadamard 0 (0x3F800000 :: List.replicate 31 0)).1 = List.replicate 32 0x3F800000 ∧
    (hadamard 1 (0x3F800000 :: List.replicate 31 0)).1 = List.replicate 32 0x3D000000 := by decide +kernel

/-- R324: the hash of one token x is x + 1, and of two tokens 0 the constant plus 1. -/
theorem test_chain_hash : chainHash 0 [41] = 42 ∧ chainHash 0 [0, 0] = 0x5DEECE66D1A4F87C := by decide +kernel

/-- A step on a fetched word runs the instruction: LI of the table after R73 in each engine's turn, and a clear of an accumulator. -/
theorem test_step_runs_fetched_word :
    ran 64 0x0C00177B01012000 (fun t => t.me.getS .f 9 == 0x177B) = true ∧ ran 32 0x0064E7FF (fun t => t.me.getS .f 7 == 2 ^ 64 - 1) = true ∧
    ran 64 0x0C000000150C2000 (fun t => t.me.pc.m == 64) = true := by decide +kernel

/-! ### Witnesses of the hypotheses -/

/-! ### States that meet the hypotheses of the statements, clause by clause -/

theorem test_meets_BranchesGoToTheirTargets :
    ((bare .f).rd 0).toNat % 32 = 0 ∧ (((bare .f).withReg 1 32).rd 1).toNat % 32 = 0 ∧ (((bare .f).withReg 1 31).rd 1).toNat % 32 ≠ 0 := by
  decide +kernel

theorem test_meets_CsrInstructionsReadAndWriteTheirOwnCopy :
    csrFieldsOk 16 (((tile .f).withReg 1 1).rd 1) = true ∧ csrFieldsOk 47 ((tile .f).rd 0) = true ∧
    csrFieldsOk 24 ((tile .f).me.getC .f 24 ||| (tile .f).rd 0) = true ∧ csrFieldsOk 19 ((tile .f).me.getC .f 19 &&& ~~~((tile .f).rd 0)) = true ∧
    (tile .f).logNext = .act ∧ (bare .f).me.mode = .root ∧ (∀ n ∈ [512, 515, 544, 559, 576, 592, 595, 597], csrFieldsOk n ((bare .f).rd 0) = true) ∧
    (writableTileCsr 16 ∧ writableTileCsr 24 ∧ writableTileCsr 32 ∧ writableTileCsr 47) := by
  iterate 7 refine ⟨by decide +kernel, ?_⟩
  refine ?_
  unfold writableTileCsr; decide +kernel

theorem test_meets_BadCsrValuesAndNumbersFault :
    csrFieldsOk 16 (((tile .f).withReg 1 (2 ^ 40)).rd 1) = false ∧ (bare .f).me.mode = .root ∧ (ctl .f).me.mode = .control ∧ (tile .f).me.mode = .tile ∧
    (∀ n ∈ [7, 15, 25, 31, 49, 63, 67, 255], ¬listedTile n) ∧ (∀ n ∈ [7, 261, 384, 511], ¬listedTile n ∧ ¬listedControl n) ∧
    (∀ n ∈ [255, 517, 527, 598, 624, 4095], ¬listedTile n ∧ ¬listedControl n ∧ ¬listedRoot n) := by
  iterate 4 refine ⟨by decide +kernel, ?_⟩
  refine ?_
  unfold listedTile listedControl listedRoot writableTileCsr; decide +kernel

theorem test_meets_EnginesMeet :
    ((tile .f).me.wait.get .m = .run ∧ (bare .f).me.mode ≠ .tile) ∧
    ((tile .f).taskOf (tile .f).cur = some (0, Task.start 0 0 0, launch0) ∧ launch0.fdem.get 0 0 = 0 ∧ launch0.pbind.get 0 0 = 0 ∧
      launch0.copying 0 = false) ∧
    (∀ w ∈ [Wait.meet 43, .meet 44, .ended], ((tile .f).othersWait w).taskOf 0 = some (0, Task.start 0 0 0, launch0) ∧
      othersStandAt ((tile .f).othersWait w) w ∧ equalPassCounts ((tile .f).othersWait w)) ∧
    ((Task.start 0 0 0).core = (tile .f).cur ∧ (Task.start 0 0 0).reports = [] ∧ (Task.start 0 0 0).ring = none) ∧
    (launch0.arrived.length + 1 = launch0.n ∧ (tile .f).me.mode = .tile ∧ (tile .f).me.stopped = none ∧ (tile .f).cur < 768) := by
  refine ⟨by decide +kernel, by decide +kernel, fun w hw => ?_, by decide +kernel, by decide +kernel⟩
  simp only [List.mem_cons, List.not_mem_nil, or_false] at hw
  refine ⟨?_, fun e he => ?_, fun e => ?_⟩
  · rcases hw with rfl | rfl | rfl <;> decide +kernel
  · rcases hw with rfl | rfl | rfl <;> revert he <;> cases e <;> decide +kernel
  · rcases hw with rfl | rfl | rfl <;> cases e <;> decide +kernel

theorem test_meets_EnginesMeet_unequal :
    othersStandAt ((tile .f).othersWait (.meet 43)) (.meet 43) ∧
    ¬equalPassCounts (((tile .f).othersWait (.meet 43)).setMe { ((tile .f).othersWait (.meet 43)).me with pass := ⟨0, 0, 0, 1⟩ }) := by
  refine ⟨fun e => by cases e <;> decide +kernel, fun h => ?_⟩
  exact absurd (h .w) (by decide +kernel)

theorem test_meets_TrapsAndPrivilege : (tile .f).me.mode = .tile ∧ (tile .f).me.stopped = none ∧ (tile .f).cur < 768 := by decide +kernel

theorem test_meets_ExceptionsEnterTheirMode :
    (bare .f).exBit 788 .root = false ∧ (ctl .f).exBit 768 .control = false ∧
    ((bare .f).enterRoot 788 0 0 0).exBit 788 .root = true ∧ ((ctl .f).enterControl 768 0 0 0 0).exBit 768 .control = true := by decide +kernel

theorem test_meets_FirmwareReturnsCallsAndHalts :
    (∀ s ∈ [(bare .f).othersWait (.meet 49), (ctl .f).othersWait (.meet 49)], (s.taskOf s.cur).isSome = true) ∧
    othersStandAt ((bare .f).othersWait (.meet 49)) (.meet 49) ∧ equalPassCounts ((bare .f).othersWait (.meet 49)) ∧
    othersStandAt ((ctl .f).othersWait (.meet (48 + 256 * 7))) (.meet (48 + 256 * 7)) ∧
    equalPassCounts ((ctl .f).othersWait (.meet (48 + 256 * 7))) ∧ (bare .f).me.mode = .root ∧ (ctl .f).me.mode = .control ∧
    othersStandAt ((ctl .f).othersWait (.meet 51)) (.meet 51) ∧ equalPassCounts ((ctl .f).othersWait (.meet 51)) ∧
    768 ∉ (ctl .f).edge.wakes ∧ 768 ∈ ((ctl .f).setEdge { (ctl .f).edge with wakes := [768] }).edge.wakes :=
  ⟨by decide +kernel, fun e => by cases e <;> decide +kernel, fun e => by cases e <;> decide +kernel, fun e => by cases e <;> decide +kernel,
    fun e => by cases e <;> decide +kernel, by decide +kernel, by decide +kernel, fun e => by cases e <;> decide +kernel, fun e => by cases e <;> decide +kernel, by decide +kernel, by decide +kernel⟩

theorem test_meets_BindingsAndResidencyAreRead :
    (tile .f).logNext = .act ∧ ((tile .f).rd 0).toNat < launch0.n ∧ launch0.n ≤ (((tile .f).withReg 1 1).rd 1).toNat ∧
    (mapped .f).withObject.logNext = .act ∧ (mapped .f).withObject.objectAt 0 0 = none ∧
    (mapped .f).withObject.objectAt 0 8388608 = some (0, 131072) ∧ (mapped .f).withObject.objectAt 0 8912895 = some (0, 131072) ∧
    (mapped .f).withObject.objectAt 0 8912896 = none ∧
    (mapped .f).withObject.pageOf .tile 0 16 .none = .ok 1048576 ∧ (mapped .f).pageOf .tile 0 549755813888 .none = .error .translation := by
  decide +kernel

/-- The root core in plain memory, with a unit 0 that is idle, runs, or has stopped. -/
def rootWith (c : Core) : State := { bare .f with cores := [(0, c), (788, Core.rootReset)] }

/-- The pages of an image at address 0. -/
def imageAt0 : List Seg := (List.range 512).map fun i => (524288 * i, 524288)

theorem test_meets_ContextSaveAndRestore :
    ((bare .f).me.mode ≠ .tile ∧ (ctl .f).me.mode = .control ∧ 2 ^ 32 ≤ (((ctl .f).withReg 1 (2 ^ 32)).rd 1).toNat ∧ entOk (((ctl .f).withReg 1 1).rd 1).toNat = false ∧
      entOk 0x80000000 = true ∧ entCore 0x80000000 = 0 ∧ (ctl .f).ownsUnit 0 0 = false ∧ (ctl .f).withPart0.ownsUnit 0 0 = true) ∧
    (((bare .f).withReg 1 0x80000000).rd 1).toNat = 0x80000000 ∧ ((bare .f).rd 0).toNat % 65536 = 0 ∧ (bare .f).memory.shadows = [] ∧
    (∀ n ∈ [Need.read, .write], (rootWith tileCore).resolve n [(0, 8 * 33554432)] = .ok [imageAt0]) ∧
    ((rootWith tileCore).plain ∧ ∀ g ∈ imageAt0, (rootWith tileCore).ordinary g ∧ (rootWith tileCore).region (g.1 / 8) = .dram) ∧
    (((rootWith tileCore).core 0).owner.isSome = true ∧ ((rootWith tileCore).core 0).stopped = none ∧ ((rootWith Core.zero).core 0).owner = none ∧
      ((rootWith { tileCore with stopped := some 5 }).core 0).stopped.isSome = true) ∧
    (tileCore.holder = [] ∧ tileCore.pad = [] ∧ imageByte [(0, 524288)] 65535 65535) := by
  iterate 5 refine ⟨by decide +kernel, ?_⟩
  refine ⟨?_, by decide +kernel, rfl, rfl, ?_⟩
  · unfold State.plain State.ordinary; decide +kernel
  · exact ⟨[], (0, 524288), [], rfl, by decide, by decide, by decide, by simp⟩

theorem test_meets_XlinvForgetsTranslations :
    (bare .f).me.mode ≠ .tile ∧ (ctl .f).me.mode = .control ∧ (ctl .f).me.part = 0 ∧ wField (((ctl .f).withReg 1 1).rd 1) 0 4 ≠ 0 ∧
    wField (((ctl .f).withReg 1 16).rd 1) 4 60 ≠ 0 ∧ wField (((ctl .f).withReg 1 16).rd 1) 0 4 = 0 ∧ wField ((ctl .f).rd 0) 4 60 = 0 ∧
    wField (((bare .f).withReg 1 15).rd 1) 4 60 = 0 ∧ (ctl .f).usesRange 0 0 64 = false ∧
    ({ ctl .f with sched := { (ctl .f).sched with launches := [(0, { launch0 with cmds := [⟨0, 0, 0, .copy (.mem 0 []) (.pad 0 0) 8⟩] })] } } : State).usesRange 0 0 64 = true ∧
    (∃ x ∈ ({ (ctl .f).memory with tlb := [(0, 0, 0, 0)] } : Memory).tlb, x.1 = 0) := by
  iterate 10 refine ⟨by decide +kernel, ?_⟩
  refine ⟨(0, 0, 0, 0), by simp, rfl⟩

theorem test_meets_TokensArePoppedAndPushed :
    taggedWith ⟨true, false, false, false⟩ .v (.vadd { vw 1 2 3 .f32 with tk := ⟨true, false, false, false⟩ }) ∧
    (tile .v).me.popped.get .v = [] ∧ (∃ q ∈ popsOf .v ⟨true, false, false, false⟩, (tile .v).me.tokens q = []) ∧
    (tile .v).hasTokens .v off ∧ ((tile .f).withToken 4).hasTokens .v ⟨true, false, false, false⟩ ∧
    (((tile .f).withToken 4).issuing .v ⟨true, false, false, false⟩).isSome = true ∧ ((tile .f).withToken 4).me.popped.get .v = [] ∧
    ((tile .f).setMe { tileCore with wait := ⟨.run, .run, .push 3, .run⟩ }).me.wait.get .v = .push 3 := by
  refine ⟨⟨{ vw 1 2 3 .f32 with tk := ⟨true, false, false, false⟩ }, rfl, by decide +kernel⟩, by decide +kernel, ⟨4, by decide +kernel, by decide +kernel⟩, .inr (by decide +kernel), .inr (by decide +kernel), by decide +kernel, by decide +kernel, by decide +kernel⟩

theorem test_meets_FaultsStopOrEnter :
    (((tile .f).setTask 0 { Task.start 0 0 0 with ring := some (ring 2) }).core 0).owner = some 0 ∧
    ((tile .f).setTask 0 { Task.start 0 0 0 with ring := some (ring 2) }).ringOf 0 = some (ring 2) ∧ Cls.code .layout < 256 ∧
    ((tile .f).core 0).mode = .tile ∧ ((tile .f).core 0).stopped = none ∧ ((bare .f).core 788).mode = .root ∧ (bare .f).exBit 788 .root = false ∧
    ((ctl .f).core 768).mode = .control ∧ (ctl .f).exBit 768 .control = false := by decide +kernel

theorem test_meets_CsrInstructionsReadAndWriteTheirOwnCopy_firmware :
    (let s := (ctl .f).withPart0
     s.me.mode ≠ .tile ∧ (∀ n ∈ [257, 260, 272, 277, 280, 281], csrFieldsOk n (s.rd 0) = true) ∧ s.ownsDram s.me.part (s.rd 0).toNat = true) ∧
    (∀ n ∈ [560, 577, 608, 623], csrFieldsOk n ((bare .f).rd 0) = true) ∧ (∀ x ∈ (bare .f).edge.records, x.root = false) ∧
    ((bare .f).rd 0).getLsbD 16 = false ∧
    (let s := ((bare .f).setRootCsr 609 65536).withReg 1 65536
     csrFieldsOk 608 (s.rd 1) = true ∧ (s.rd 1).getLsbD 16 = true ∧ (s.rootCsr 609).getLsbD 16 = true ∧
       wField (s.rootCsr 609) 0 16 = wField (s.rd 1) 0 16) ∧
    ((bare .f).rd 0 = (bare .f).rootCsr 560 ∧ csrFieldsOk 560 (((bare .f).withReg 1 256).rd 1) = true ∧
      ((bare .f).withReg 1 256).rd 1 ≠ (bare .f).rootCsr 560 ∧ (bare .f).cur = 788) ∧
    wField (bare .f).edge.pfStatus 4 4 = 5 ∧ wField ((bare .f).setEdge { (bare .f).edge with pfStatus := 113 }).edge.pfStatus 4 4 = 7 := by
  decide +kernel

/-- Three engines have stopped at END or stand at STEP where the fourth reaches another word: no meeting of R84 or R413 holds. -/
theorem test_meets_EnginesMeet_mixed : ∀ o ∈ [Wait.ended, .meet 44],
    let s := (tile .f).othersWait o
    s.taskOf s.cur = some (0, Task.start 0 0 0, launch0) ∧ (∀ e, e ≠ s.eng → s.me.wait.get e = .ended ∨ ∃ o, s.me.wait.get e = .meet o) ∧
    (let c := { s.me with wait := s.me.wait.set s.eng (.meet 43) }
     (∃ e, c.wait.get e ≠ .ended) ∧ ∀ op : Nat, ¬∀ e, ∃ o, c.wait.get e = .meet o ∧ o % 256 = op) := by
  intro o ho
  simp only [List.mem_cons, List.not_mem_nil, or_false] at ho
  rcases ho with rfl | rfl
  · refine ⟨by decide +kernel, fun e he => ?_, ⟨.f, by decide +kernel⟩, fun op h => ?_⟩
    · cases e <;> first | exact absurd rfl he | exact .inl (by decide +kernel)
    · obtain ⟨o, ho, -⟩ := h .m
      exact absurd ho (by show Wait.ended ≠ _; exact Wait.noConfusion)
  · refine ⟨by decide +kernel, fun e he => ?_, ⟨.f, by decide +kernel⟩, fun op h => ?_⟩
    · cases e <;> first | exact absurd rfl he | exact .inr ⟨44, by decide +kernel⟩
    · obtain ⟨o, ho, h1⟩ := h .m
      obtain ⟨q, hq, h2⟩ := h .f
      have ho : Wait.meet 44 = .meet o := ho
      have hq : Wait.meet 43 = .meet q := hq
      cases ho; cases hq; omega

/-- The events of a control core and of the queue of its mode. -/
theorem test_meets_FirmwareReturnsCallsAndHalts_events :
    (ctl .f).queueOf 768 = 768 ∧ (bare .f).queueOf 788 = rootId ∧ (∀ k ∈ [768, queueWake 768], k ∉ (ctl .f).edge.wakes) ∧
    (∀ k ∈ [768, queueWake 768], k ∈ ((ctl .f).setEdge { (ctl .f).edge with wakes := [k] }).edge.wakes) := by decide +kernel

theorem test_meets_BindingsAndResidencyAreRead_plain :
    (mapped .f).withObject.plain ∧ (mapped .f).withObject.objectAt (mapped .f).withObject.me.part 8388608 = some (0, 131072) ∧
    (rootWith tileCore).edge.sramErr = [] := by
  and_intros
  all_goals decide +kernel

theorem test_meets_DecodingInvertsEncoding : (Instr.fld (mw 15 31 7)).wf = true ∧ encode (.fld (mw 15 31 7)) ≠ [] ∧
    (Instr.add 31 0 31).wf = true ∧ encode (.add 31 0 31) ≠ [] := by decide +kernel

theorem test_meets_EveryWordHasOneMeaning : decodeBytes [0x50, 0x61, 0, 0, 9] = .ok (.add 3 1 10, [9]) := by decide +kernel

theorem test_meets_IllegalWordsAreRefusedInOrder :
    (∀ tag ∈ [5, 6, 7], tag * 2 ^ 25 / 2 ^ 25 % 8 = tag ∧ tag * 2 ^ 25 < 2 ^ 32) ∧
    (2 ^ 28 / 2 ^ 25 % 8 = 0 ∧ 2 ^ 28 / 2 ^ 28 ≠ 0) ∧ (2 ^ 25 / 2 ^ 25 % 8 = 1 ∧ 2 ^ 25 / 2 ^ 24 % 2 ≠ 1) ∧
    ((2 ^ 24 / 2 ^ 25 % 8 = 0 ∧ 2 ^ 24 / 2 ^ 28 = 0 ∧ 2 ^ 24 / 2 ^ 24 % 2 = 1) ∧ 0 / 2 ^ 25 ≠ 6 ∧ 6 * 2 ^ 25 / 2 ^ 25 = 6) ∧
    (∀ op ∈ [52, 63], op * 2 ^ 18 / 2 ^ 25 % 8 = 0 ∧ op * 2 ^ 18 / 2 ^ 24 % 2 = 0 ∧ 51 < op * 2 ^ 18 / 2 ^ 18 % 64) ∧
    (∀ op ∈ [0, 14, 16, 30, 59], let w := 3 * 2 ^ 25 + 2 ^ 24 + op * 2 ^ 18
      w < 2 ^ 32 ∧ w / 2 ^ 25 % 8 = 3 ∧ w / 2 ^ 18 % 64 = op ∧ op ≤ 59 ∧ op ≠ 15 ∧ op ≠ 31) := by decide +kernel

/-- M's turn comes after F's in the machine after reset, and the word at its pc is HALT. -/
def atHalt : State := { State.reset with next := .m, memory := { State.reset.memory with bytes := [(2, 204)] } }

theorem test_meets_AStepRunsTheDecodedInstruction :
    ∃ u, atHalt.takeTurn = (none, u) ∧ atHalt.edge.powered = true ∧ u.runnable u.cur = true ∧ isGhost u.cur = false ∧ u.tornWord u.cur = false ∧ u.edge.throttle = false ∧ u.me.deadlocked = false ∧
      u.me.wait.get u.eng = .run ∧ u.me.slipStall u.eng = false ∧ u.eng = .m ∧ u.cur = 788 ∧ u.inTime = u ∧ u.movers = atHalt.movers ∧ u.memory = atHalt.memory ∧ u.cores = atHalt.cores ∧
      u.edge = atHalt.edge := by
  refine ⟨_, rfl, ?_⟩
  iterate 8 refine ⟨by decide +kernel, ?_⟩
  exact ⟨rfl, rfl, rfl, rfl, rfl, rfl, rfl⟩

theorem test_meets_AStepRunsTheDecodedInstruction_word :
    ({ atHalt with eng := .m } : State).fetchWord 0 = .ok 13369344 ∧ decodeWords 13369344 0 = .ok .halt ∧ tagEngine (engTag 13369344) = none ∧
    atHalt.resolve .fetch [(0, 32)] = .ok [[(0, 32)]] ∧ atHalt.plain ∧ atHalt.ordinary (0, 32) ∧
    atHalt.memory.oldText = [] ∧ atHalt.movers.copies = [] := by
  iterate 4 refine ⟨by decide +kernel, ?_⟩
  refine ⟨?_, ?_, rfl, rfl⟩
  · unfold State.plain; decide +kernel
  · unfold State.ordinary; decide +kernel

theorem test_meets_StepsKeepTheMemoryInvariant : State.reset.memoryWf ∧ ∃ t, exec .nop State.reset = .next t := ⟨rfl, _, rfl⟩

theorem test_meets_VectorInstructionsRetire :
    (small .f).issuing .v off = some (small .v) ∧ (∀ i ∈ elementwise (vw 1 2 3 .f32), i ∈ [Instr.vadd (vw 1 2 3 .f32), .vand (vw 1 2 3 .f32)] → i.wf = true) ∧
    Instr.vadd (vw 1 2 3 .f32) ∈ elementwise (vw 1 2 3 .f32) ∧ Instr.vredr (vw 1 2 0 .f32) ∈ linewise (vw 1 2 0 .f32) ∧
    (Instr.vredr (vw 1 2 0 .f32)).wf = true ∧ (Instr.viadd { vw 1 2 3 .i64 with pred := 1 }).wf = true ∧ (small .v).me.rows .v = 2 ∧ (small .v).me.cols .v = 3 ∧
    ((small .v).me.prow 1 0).testBit 2 = false := by decide +kernel

theorem test_meets_VectorElementResults :
    (small .f).issuing .v off = some (small .v) ∧ (Instr.viadd (vw 1 2 3 .i64)).wf = true ∧ (Instr.vimul { vw 1 2 3 .n8 with sub := 1 }).wf = true ∧
    (Instr.vmin (vw 1 2 3 .i16)).wf = true ∧ (Instr.vand (vw 1 2 3 .f32)).wf = true ∧ (Instr.vshl { vw 1 2 0 .i8 with mod := 71 }).wf = true ∧
    (Instr.vadd (vw 1 2 3 .bf16)).wf = true ∧ (Instr.vabs (vw 1 2 0 .f16)).wf = true ∧ (Instr.vlog2 (vw 1 2 0 .f32)).wf = true ∧
    (∃ w, exec (.viadd (vw 1 2 3 .i64)) (small .f) = .next w) ∧ (∃ w, exec (.vadd (vw 1 2 3 .bf16)) (small .f) = .next w) ∧
    activeElement (vw 1 2 3 .i64) .i64 (small .v).me 1 0 ∧ activeElement (vw 1 2 3 .i32) .i32 (small .v).me 0 2 := by
  iterate 9 refine ⟨by decide +kernel, ?_⟩
  refine ⟨exists_next (by decide +kernel), exists_next (by decide +kernel), ?_, ?_⟩ <;>
    (unfold activeElement; decide +kernel)

theorem test_meets_VectorElementResults_nan :
    (valOf .f32 (elementCode .f32 { tileCore with vreg := [(2048, 0x7FC00001)] } 2 0 0)).isNan = true ∧
    (valOf .bf16 (elementCode .bf16 { tileCore with vreg := [(2048, 0x7F80)] } 2 0 0)).isNan = false := by decide +kernel

theorem test_meets_MovementsTakeTheirSourceLanes :
    (∀ i ∈ [Instr.vrotr { vw 1 2 0 .f32 with mod := 79 }, .vrotc { vw 1 2 0 .f32 with mod := 127 }, .vbcr (vw 1 2 3 .f32), .vbcc (vw 1 2 3 .f32),
      .vtrn (vw 1 2 0 .f32), .vselp { vw 1 2 3 .f32 with c := 15 }, .viota { vw 1 0 0 .f32 with sub := 2 }, .vmovz (vw 1 7 0 .f32), .vbcs (vw 1 31 0 .i32)],
      i.wf = true) ∧ (∃ w, exec (.vrotr { vw 1 2 0 .f32 with mod := 79 }) (small .f) = .next w) ∧ (∃ w, exec (.vbcs (vw 1 31 0 .i32)) (small .f) = .next w) ∧
    activeElement (vw 1 2 0 .f32) .n32 (small .v).me 1 2 := by
  refine ⟨by decide +kernel, exists_next (by decide +kernel), exists_next (by decide +kernel), ?_⟩
  unfold activeElement; decide +kernel

theorem test_meets_PredicateInstructionsWriteTheirPredicate :
    (∀ i ∈ [Instr.vcmp (vw 15 2 3 .i32), .vtopk (vw 1 2 0 .i16), .pand (vw 1 15 2 .f32), .por (vw 1 2 3 .f32), .pxor (vw 1 2 3 .f32), .pnot (vw 1 2 0 .f32),
      .pset { vw 1 0 0 .f32 with mod := 3 }, .pset { vw 1 0 0 .f32 with mod := 1, pred := 2 }, .punpk (vw 1 2 0 .f32), .pfrst (vw 1 2 0 .f32)], i.wf = true) ∧
    (∃ w, exec (.vcmp (vw 15 2 3 .i32)) (small .f) = .next w) ∧ (small .f).issuing .v off = some (small .v) ∧ (1 < (small .v).me.rows .v ∧ 2 ≤ (small .v).me.rows .v) :=
  ⟨by decide +kernel, exists_next (by decide +kernel), by decide +kernel, by decide +kernel⟩

theorem test_meets_ScalarResultsOfV :
    ((small .f).withReg 3 1024).issuing .v off = some ((small .v).withReg 3 1024) ∧ (((small .v).withReg 3 1024).me.getS .v 3).toNat = 1024 ∧
    ((small .f).withReg 3 1023).issuing .v off = some ((small .v).withReg 3 1023) ∧ (((small .v).withReg 3 1023).me.getS .v 3).toNat = 1023 ∧
    ((small .f).withReg 3 1022).issuing .v off = some ((small .v).withReg 3 1022) ∧ Ty.width .i64 = 64 ∧ Ty.width .f32 ≤ 32 ∧
    (∃ v, ({ (small .f).withReg 3 1024 with eng := .v } : State).takeTokens 0 .v (popsOf .v off) = some v) := by
  iterate 7 refine ⟨by decide +kernel, ?_⟩
  exact ⟨_, rfl⟩

theorem test_meets_QuantisationAndBankTransfersRetire :
    (∀ r, r < (small .v).me.rows .v → inBank ((small .v).me.bfmt .v 0) (0 + r * 0) ((small .v).me.cols .v) = true) ∧
    fmtScl ((small .v).me.bfmt .v 0) ≠ 1 ∧ 2 ^ 42 ≤ (((small .v).withReg 3 (2 ^ 42)).me.getS .v 3).toNat ∧
    (∃ t, exec (.vldb (vw 1 0 3 .f32)) ((small .v).withReg 3 (2 ^ 42)) = .next t) ∧ (small .v).slotOf (((small .v).me.owner).getD 0) = none := by
  refine ⟨fun r hr => ?_, by decide +kernel, by decide +kernel, exists_next (by decide +kernel), by decide +kernel⟩
  simp only [Nat.mul_zero, Nat.add_zero]
  decide +kernel

theorem test_meets_MatrixInstructionsRetire :
    (small .f).issuing .m off = some (small .m) ∧ (∃ q, (small .m).tile (vw 0 0 0 .i8) = .ok q ∧ (small .m).partsDone .i8 q = .ok ()) ∧
    (∃ f, (tile .m).tile (vw 0 0 0 .i8) = .error (.trap f)) ∧
    (((small .m).withReg 3 (2 ^ 52)).me.getS .m 3).toNat / 2 ^ 52 ≠ 0 ∧ 1024 < (((small .m).withReg 3 (1024 * 1023 + 1)).me.getS .m 3).toNat % 1024 + slabsPer .i8 * 1024 ∧
    (let v := (((small .m).withReg 3 0).me.getS .m 3).toNat; v < 2 ^ 36 ∧ v / 2 ^ 16 % 1024 + (v / 2 ^ 26 % 1024 + 1) ≤ 1024 ∧ v % 65536 + 3072 * 1 ≤ 65536) ∧
    (let v := (((small .m).withReg 3 1023).me.getS .m 3).toNat; v < 2 ^ 20 ∧ v % 1024 + (v / 1024 % 1024 + 1) ≤ 1024) ∧
    (∃ t, exec (.mwcp (vw 0 1 3 .f32)) ((small .m).withReg 3 (2 ^ 36)) = .next t) := by
  refine ⟨by decide +kernel, ⟨⟨1, 0, [List.replicate 192 .filled |>.set 0 (.code 0), List.replicate 192 .filled]⟩, by decide +kernel, by decide +kernel⟩, ⟨mkTrap .operandFormat, by decide +kernel⟩, ?_⟩
  iterate 4 refine ⟨by decide +kernel, ?_⟩
  exact exists_next (by decide +kernel)


/-- An A element that the checks of a tile accept. -/
def acceptedA (a : AElem) : Bool := match a with | .filled | .code _ => true | _ => false

theorem test_meets_MatrixInstructionsRetire_operands : operandsFit (small .m) (vw 0 0 0 .i8) ∧ slabsAtHome (small .m) (vw 0 0 0 .i8) := by
  refine ⟨⟨rfl, by decide +kernel, rfl, by decide +kernel, (by cases ·), fun _ => by decide +kernel, fun i k hi hk => ?_⟩, rfl, fun r _ _ => rfl⟩
  have h : ∀ i, i < 2 → ∀ k : Nat, k < 192 → acceptedA (((small .m).me.genAt 0).elemA (signed 32 (((small .m).me.getS .m 0).toNat / 2 ^ 20 % 2 ^ 32) + k) i) = true := by
    decide +kernel
  have hk : k < 192 := Nat.lt_of_lt_of_eq hk (by decide +kernel)
  have := h i hi k hk
  revert this
  show acceptedA (((small .m).me.genAt 0).elemA (signed 32 (((small .m).me.getS .m 0).toNat / 2 ^ 20 % 2 ^ 32) + k) i) = true → (match
    ((small .m).me.genAt 0).elemA (signed 32 (((small .m).me.getS .m 0).toNat / 2 ^ 20 % 2 ^ 32) + k) i with
    | .filled => True | .code bit => Ty.isMk .i8 = true → _ | _ => False)
  cases ((small .m).me.genAt 0).elemA (signed 32 (((small .m).me.getS .m 0).toNat / 2 ^ 20 % 2 ^ 32) + k) i with
  | filled => exact fun _ => trivial
  | code b => exact fun _ h => by cases h
  | _ => exact fun h => by cases h

/-- Slab 0 is held at core 5. -/
theorem test_meets_MatrixInstructionsRetire_parts :
    let u := (small .m).setMe { (small .m).me with holder := [(0, 6)] }
    (∃ q, u.tile (vw 0 0 0 .i8) = .ok q ∧ 5 ∈ u.holders .i8 q) ∧ 5 ∉ u.me.parts ∧ u.memory.check = [] :=
  ⟨⟨⟨1, 0, [List.replicate 192 .filled |>.set 0 (.code 0), List.replicate 192 .filled]⟩, by decide +kernel, by decide +kernel⟩, by decide +kernel, rfl⟩

/-- Bank 0 of the running core's V copy holds MK4 blocks with their scales. -/
theorem test_meets_QuantisationAndBankTransfersRetire_blocks :
    let c := { (small .v).me with csr := [(529, 2097154#64), (544, 27#64)] }
    fmtScl (c.bfmt .v 0) = 1 ∧ c.cols .v % 32 = 0 ∧ c.rows .v = 2 ∧ (∀ r, r < 2 → inBank (c.bfmt .v 0) (0 + r * 0) (c.cols .v) = true) ∧
    (small .v).me.cols .v % 32 ≠ 0 := by decide +kernel

/-- Every active element of v_2 is a NaN. -/
theorem test_meets_VectorElementResults_flags :
    let s := (small .f).setMe { (small .f).me with vreg := [(2048, 0x7FC00000), (2049, 0x7F800001), (2050, 0xFFC00000),
      (2112, 0x7FC00000), (2113, 0x7FC00000), (2114, 0x7FC00000)] }
    let x := vw 1 2 3 .f32
    ∃ u, s.issuing .v off = some u ∧ (Instr.vadd x).wf = true ∧ (Instr.vabs (vw 1 2 0 .f32)).wf = true ∧
      (∃ w, exec (.vadd x) s = .next w) ∧ ∀ r e, activeElement x .f32 u.me r e → (valOf .f32 (elementCode .f32 u.me 2 r e)).isNan = true := by
  refine ⟨_, rfl, by decide +kernel, by decide +kernel, exists_next (by decide +kernel), fun r e h => ?_⟩
  have all : ∀ r, r < 2 → ∀ e, e < 3 → (valOf .f32 (elementCode .f32 ((small .v).setMe { (small .v).me with
      vreg := [(2048, 0x7FC00000), (2049, 0x7F800001), (2050, 0xFFC00000),
      (2112, 0x7FC00000), (2113, 0x7FC00000), (2114, 0x7FC00000)] }).me 2 r e)).isNan = true := by decide +kernel
  exact all r h.1 e h.2.1

theorem test_meets_TokensArePoppedAndPushed_places :
    (tile .f).me.taken 4 < 8 ∧ 8 ≤ ((tile .f).setMe { tileCore with fifo := [(4, List.replicate 8 (Quad.const 0))] }).me.taken 4 := by
  decide +kernel

theorem test_meets_LoadsAndStoresReachTheBitsOfTheirPages :
    (bare .f).resolve .read [(0, 1)] = .ok [[(0, 1)]] ∧ (bare .f).resolve .write [(524287, 1)] = .ok [[(524287, 1)]] ∧
    (bare .f).resolve .read [(524280, 64)] = .ok [[(524280, 8), (524288, 56)]] ∧ (mapped .w).resolve .write [(8192, 64)] = .ok [[(8192, 64)]] ∧
    (bare .f).plain ∧ (∀ g ∈ [(0, 1), (524287, 1), (524280, 8), (524288, 56)], (bare .f).ordinary g) ∧ (mapped .w).plain ∧ (mapped .w).ordinary (8192, 64) ∧
    (bare .f).movers.copies = [] ∧ (mapped .w).slotless ∧ (mapped .w).memory.shadows = [] ∧ (mapped .w).me.mode = .tile ∧ (mapped .w).flashHeld [(8192, 64)] = false ∧
    succeeds ((bare .f).load .read 524280 64) (fun _ => true) = true := by
  and_intros
  all_goals try decide +kernel
  · unfold State.ordinary; decide +kernel
  · intro k hk
    rw [show (mapped .w).me.owner = some 0 by decide +kernel] at hk
    cases hk; decide +kernel

theorem test_meets_ScalarLoadsAndStores :
    (rich .w).issuing .f off = some (rich .f) ∧ (rich .f).issuing .w off = some (rich .w) ∧
    (rich .f).scalarAddr 1 0 32 = .ok 1024 ∧ (rich .f).scalarAddr 1 261120 32 = .ok 0 ∧ (rich .f).scalarAddr 0 262143 1 = fail .addrGen (BitVec.ofInt 64 (-1)) ∧
    succeeds ((rich .f).load .read 1024 32) (fun _ => true) = true ∧ succeeds ((rich .w).store 1024 32 0) (fun _ => true) = true ∧
    (rich .f).resolve .read [(1024, 8)] = .ok [[(1024, 8)]] ∧ (rich .f).plain ∧ (rich .f).ordinary (1024, 8) ∧ (∀ p, (rich .f).portPage p = none) ∧
    (rich .f).dramGiB ≤ 1024 ∧ (rich .f).me.kcache = [] := by
  iterate 8 refine ⟨by decide +kernel, ?_⟩
  refine ⟨?_, ?_, fun p => ?_, by decide +kernel, by decide +kernel⟩
  · unfold State.plain; decide +kernel
  · unfold State.ordinary; decide +kernel
  · have h : ∀ q ∈ List.range 16, (rich .f).rootCsr (544 + q) = 0 := by decide +kernel
    rw [State.portPage, List.find?_eq_none.mpr]
    · rfl
    · intro q hq
      have : Sparse.get (0#64) (rich .f).edge.rootCsr (544 + q) = 0#64 := h q hq
      simp [this]

theorem test_meets_TensorLoadsBringTheirElements :
    (rich .w).issuing .f off = some (rich .f) ∧ (rich .f).plain ∧ (rich .f).me.owner = some 267264 ∧ (rich .f).slotOf 267264 = none ∧
    succeeds ((rich .f).flatElems (mw 0 0 0)) (fun r => succeeds ((rich .f).readElems r.1 r.2) fun y => decide (y.1 = [(0, 0)] ∧ y.2.slotOf 267264 = none)) = true ∧
    succeeds ((rich .f).blockElems (mw 0 0 0)) (fun r => succeeds ((rich .f).readElems r.1 r.2) fun y => decide (y.1 = [(0, 0)])) = true ∧
    succeeds ((rich .f).laneElems (mw 0 0 0)) (fun r => succeeds ((rich .f).readElems r.1 r.2) fun y => decide (y.1 = [(0, 0)])) = true ∧
    (((rich .f).rd 0).toNat + 1 ≤ 1024 ∧ succeeds ((rich .f).load .read 0 8192) (fun _ => true) = true) := by
  and_intros
  all_goals decide +kernel

/-- The running task keeps no replay slot. -/
theorem slotless_rich (e : Eng) : (rich e).slotless := by
  intro k hk
  rw [show (rich e).me.owner = some 267264 by cases e <;> decide +kernel] at hk
  cases hk; cases e <;> decide +kernel

theorem test_meets_TensorStoresWriteTheirElements :
    (rich .w).slotless ∧ (rich .w).flashHeld [(0, 8)] = false ∧
    (rich .f).issuing .w off = some (rich .w) ∧ (rich .w).memory.shadows = [] ∧ (rich .w).movers.copies = [] ∧ (rich .w).plain ∧ (rich .w).ordinary (0, 8) ∧
    (∀ x ∈ [(rich .w).flatElems (mw 0 0 0), (rich .w).blockElems (mw 0 0 0), (rich .w).laneElems (mw 0 0 0)],
      succeeds x (fun r => decide ((rich .w).checkElems r.1 .write r.2 = .ok [[(0, 8)]])) = true) := by
  refine ⟨slotless_rich .w, ?_⟩
  and_intros
  all_goals decide +kernel

theorem test_meets_GeneratorsAndWindowsAreSet :
    succeeds ((rich .f).loadRecord 1024 1024 1024) (fun r => layoutOk r.1) = true ∧
    succeeds ((rich .f).loadRecord 4096 512 512) (fun r => windowOk r.1 && succeeds (r.2.fetchRows (winOf r.1) (winOf r.1).row0 (winOf r.1).slots) fun _ => true) = true ∧
    (let m := winOf (natOfBytes ((rich .f).me.win.slice 0 0 64))
     m.slots = 1 ∧ succeeds ((rich .f).fetchRows m (m.head + m.slots) 1) (fun _ => true) = true) ∧
    succeeds ((rich .f).loadRecord 0 1024 1024) (fun r => !layoutOk r.1 && !windowOk r.1) = true ∧
    succeeds ((rich .f).loadRecord 0 512 512) (fun r => !windowOk r.1) = true ∧ (({ rich .w with eng := .f } : State).takeTokens 788 .f (popsOf .f off)).isSome = true := by
  decide +kernel

theorem test_meets_CopiesPrefetchesAndFences :
    (rich .f).slotless ∧
    wField ((rich .f).rd 0) 42 22 = 0 ∧ wField (((rich .f).withReg 5 (2 ^ 42)).rd 5) 42 22 = 1 ∧ inBank ((rich .f).me.bfmt .f 0) 0 1 = true ∧
    inBank ((rich .f).me.bfmt .f 15) 65535 1 = true ∧ inBank ((rich .f).me.bfmt .f 15) 65536 1 = false ∧ fmtScl ((rich .f).me.bfmt .f 0) = 0 ∧
    fmtTy (((small .f).me.bfmt .f 0)) = .i8 ∧ (rich .f).resolve .read [(1024, 4096)] = .ok [[(1024, 4096)]] ∧ validRef (rich .f) 0 ∧
    ((mw 0 0 0).sub.val.testBit 1 = false ∧ ({ mw 0 0 0 with sub := 2 } : MW).sub.val.testBit 1 = true) := by
  refine ⟨slotless_rich .f, ?_⟩
  and_intros
  all_goals decide +kernel

theorem test_meets_AttentionInstructionsRetire :
    succeeds ((rich .f).descriptor (mw 1 3 2) false) (fun r => succeeds (r.2.linear .read r.1.list (some r.1.dim) nothingElse) fun y =>
      decide (y.2.1.getD 2 0 = 0 ∧ y.2.1.getD 3 0 = 0)) = true ∧
    succeeds ((rich .f).descriptor (mw 1 3 2) true) (fun r => succeeds (r.2.blocks r.1) fun y => decide (y.1 = [])) = true ∧
    succeeds ((rich .f).descriptor (mw 1 3 2) false) (fun r => succeeds (r.2.linear .read r.1.list (some r.1.dim) nothingElse) fun _ => true) = true ∧
    ((rich .w).rd 0).getLsbD 63 = false ∧ ((rich .w).rd 6).getLsbD 63 = true ∧ ((rich .w).rd 6).getLsbD 62 = false ∧ ((rich .w).rd 4).toNat % 512 = 0 ∧
    succeeds ((rich .w).linear .both 65536 none (blockSpan ((rich .w).rd 6) .f16)) (fun r =>
      succeeds (r.2.2.checkBlocks [(rich .w).rd 6] .f16 r.1) (fun _ => true) && succeeds (r.2.2.blockTokens ((rich .w).rd 6) .f16 r.1) fun y =>
      decide (y.2.resolve .both [(65536, 8 * stateBytes r.1)] = .ok [[(65536, 8 * stateBytes r.1)]] ∧ y.2.memory.clrRows = [] ∧ y.2.memory.clrBlocks = [] ∧ y.2.memory.check = [] ∧
        y.2.memory.badUnits = [] ∧ y.2.edge.late = [] ∧ y.2.movers.copies = [] ∧ y.2.me.owner = some 267264 ∧ y.2.slotOf 267264 = none ∧ y.2.memory.shadows = [] ∧
        y.2.flashHeld [(65536, 8 * stateBytes r.1)] = false ∧ y.1.length = 1)) = true ∧
    (rich .w).ordinary (65536, 1024) := by
  unfold State.ordinary; decide +kernel

theorem test_meets_AtomicsReadModifyAndWrite :
    (rich .w).slotless ∧ (rich .w).flashHeld [(1024, 64)] = false ∧
    ((rich .w).rd 1).toNat % 64 = 0 ∧ (∀ k ∈ [0, 4, 7], (rich .w).resolve .both [(1024, widthOf k)] = .ok [[(1024, widthOf k)]]) ∧
    (rich .w).plain ∧ (rich .w).ordinary (1024, 64) ∧ (rich .w).memory.shadows = [] ∧ (rich .w).movers.copies = [] := by
  refine ⟨slotless_rich .w, by decide +kernel, by decide +kernel, by decide +kernel, ?_, ?_, by decide +kernel, by decide +kernel⟩
  · unfold State.plain; decide +kernel
  · unfold State.ordinary; decide +kernel

theorem test_meets_CommandsAreQueued :
    (bare .w).taskOf 788 = some (267264, Task.start 1044 0 788, Launch.firmware 788) ∧ (rich .w).resolve .read [(1024, 32)] = .ok [[(1024, 32)]] ∧
    (rich .w).resolve .write [(4096, 32)] = .ok [[(4096, 32)]] ∧ (rich .w).portFault [(4096, 32)] = .ok () ∧
    (wField (33554400 : Word) 25 7 = 0 ∧ wField (33554400 : Word) 0 25 + 32 ≤ 33554432 ∧ wField (33554400 : Word) 32 8 < 1) ∧
    (wField (100663264 : Word) 27 5 = 0 ∧ wField (100663264 : Word) 0 27 + 32 ≤ 100663296) ∧
    (1024 ≤ { Task.start 1044 0 788 with cmdPos := 1024 }.cmdPos ∧ (Task.start 1044 0 788).cmdPos < 1024) ∧
    succeeds ((rich .w).redWindow (mw 0 0 0)) (fun r => decide (r.1.n = 1 ∧ r.1.base = 0 ∧ r.1.ty = .f32 ∧ r.1.table = [0] ∧ r.1.got = [] ∧ r.2.1 = [(0, 32)] ∧
      r.2.2.taskOf 788 = some (267264, Task.start 1044 0 788, Launch.firmware 788) ∧ r.2.2.portFault r.2.1 = .ok ())) = true := by decide +kernel

theorem test_meets_BarriersCountAndWait :
    (validRef (bare .w) 0 ∧ ownRef (bare .w) 0 ∧ (bare .w).me.wait.get .w ≠ .meet 51 ∧ (bare .w).barC (barrierAt 0 0) = 0 ∧ (bare .w).logNext = .act) ∧
    ((withBarrier .w).barC (barrierAt 0 0) = 2 ∧ (withBarrier .w).barN (barrierAt 0 0) = 5 ∧ (∀ k ∈ [0, 1, 2, 3], (withBarrier .w).barCount (barrierAt 0 0) k = 0)) ∧
    ((withBarrier .w).memory.arrivals = [] ∧ (withBarrier .w).plain ∧ (withBarrier .w).me.wBar = .idle ∧ (withBarrier .w).me.fBar = .idle ∧ (withBarrier .w).logNext = .act) ∧
    ((8 : Word).toNat < 5 + 4 ∧ 5 + 4 ≤ (9 : Word).toNat ∧ (4 : Word).toNat < 5 ∧ (0 : Word).toNat + 4 < 5 ∧ 5 ≤ (1 : Word).toNat + 4 ∧ 5 ≤ (5 : Word).toNat) := by
  unfold validRef ownRef State.plain; decide +kernel

theorem test_meets_ShadowRegionsOpenAndPublish :
    (owner0 .w).resolve .none [(1024, 128)] = .ok [[(1024, 128)]] ∧ (owner0 .w).ownsDram 0 128 = true ∧ (owner0 .w).logNext = .act ∧
    (owner0 .w).memory.shadows = [] ∧ (owner0 .w).launchId = 1044 ∧ (owner0 .w).plain ∧ Sparse.wf 0 (owner0 .w).memory.shadowData = true ∧
    (({ (owner0 .w).memory with shadows := [⟨1044, 0, 1024, 128, [(128, 16)]⟩] } : Memory).shadows.find? fun y => y.launch == 1044 && y.base == 1024).isSome = true ∧
    ((owner0 .w).memory.shadows.find? fun y => y.launch == 1044 && y.base == 0) = none ∧ (owner0 .w).resolve .read [(0, 1)] = .ok [[(0, 1)]] := by
  unfold State.plain; decide +kernel

theorem test_meets_RowCommandsRunAsAGroup :
    (owner0 .w).rowAddrs [(.none, 0)] = .ok [(0, true)] ∧ (owner0 .w).rowAddrs [(.write, 0)] = .ok [(0, true)] ∧
    (owner0 .w).rowAddrs [(.write, 0), (.read, 1024)] = .ok [(0, true), (128, true)] ∧
    (∀ p ∈ rowLines (rowKey 0 0 0 0) ++ rowLines (rowKey 0 0 0 1), (owner0 .w).portOver p 128 = false) ∧
    (∀ pages ∈ [[0], [0, 1]], (owner0 .w).groupDown ⟨0, [⟨rowKey 0 0 0 0, none⟩], false, some 0, pages⟩ = false) ∧ (owner0 .w).memory.shadows = [] ∧
    (owner0 .w).stackGone 0 = false ∧ sliceOf 0 / 16 = 0 ∧ (blockRows 0).length = 32 ∧
    (((owner0 .w).withTask fun t => { t with group := some ⟨0, [], false, none, []⟩ }).taskOf 788).isSome = true ∧
    (rowKey 0 0 0 1 / 65536 = rowKey 0 0 0 0 / 65536 ∧ (owner0 .w).subarray (rowKey 0 0 0 511) = (owner0 .w).subarray (rowKey 0 0 0 0)) ∧ (owner0 .w).plain := by
  unfold State.plain; decide +kernel

theorem test_meets_StarterInstructionsActOnTheirTree :
    succeeds ((withChild .f).seek (mw 1 0 0)) (fun r => decide (r.2.1 = [0])) = true ∧
    succeeds (((withChild .f).withReg 5 (16 * 2 ^ 32)).seek (mw 1 0 5)) (fun r => decide (r.2.1 = [1, 0] ∧ r.2.2.2.slotOf 267264 = none)) = true ∧
    (withChild .w).namedNode 0 1 true = .ok (treeAt 0 0) ∧ ((withChild .w).node (treeAt 0 0) 1).ref = 1 ∧
    succeeds ((withChild .w).dropNodes 0 (treeAt 0 0) (((withChild .w).ancestors (treeAt 0 0) 122880 1).filter fun k =>
      ((withChild .w).node (treeAt 0 0) k).ownedBy (withChild .w).ownerField && decide (0 < ((withChild .w).node (treeAt 0 0) k).depth * 16)))
      (fun r => decide (r.1 = 0 ∧ r.2.1 = 1)) = true := by decide +kernel

theorem test_meets_StarterInstructionsActOnTheirTree_deposit :
    succeeds ((withChild .w).depositOf (mw 1 0 0)) (fun r =>
      succeeds (r.2.confirm r.1.tree r.1.node.hash r.1.ids (r.2.kids r.1.tree r.1.parent) 0) fun y => decide (y.1 = some 1 ∧ (y.2.2.node r.1.tree 1).ref < 2 ^ 32 - 1)) = true ∧
    (∀ cap ∈ [1, 2], succeeds ((withTree .w cap).depositOf (mw 1 0 0)) (fun r =>
      succeeds (r.2.confirm r.1.tree r.1.node.hash r.1.ids (r.2.kids r.1.tree r.1.parent) 0) fun y => decide (y.1 = none) &&
        succeeds (y.2.2.newNode r.1.tree r.1.parent r.1.node r.1.pages) fun z => z.isSome == decide (cap = 2)) = true) := by decide +kernel

theorem test_meets_QueuedUnitsTakeRequests :
    ((owner0 .w).withObject.resolve .read [(8388608, 524288)] = .ok [[(8388608, 524288)]] ∧ (owner0 .w).withObject.objectOver 8388608 524288 = some (0, 2) ∧
      (owner0 .w).withObject.objectOver 8912895 1 = some (0, 2) ∧ validRef (owner0 .w).withObject 0 ∧ (owner0 .w).withObject.logNext = .act) ∧
    succeeds ((withRecords .w).tableBits 32768) (fun r => decide (r.1 = 1 ∧ r.2.2.entries 32768 r.2.1 1 = .ok [(0, 0)] ∧ wField (r.2.2.rootCsr 592) 0 9 = 0) &&
      succeeds (r.2.2.store (32768 + 512 + 32) 32 5) fun _ => true) = true ∧
    succeeds ((withRecords .w).openRing (mw 0 1 0)) (fun r => decide (r.1 = { ring 2 with opening := true })) = true ∧
    (bare .w).ccnt.toNat < (ring 2).t0.toNat + 16 * (ring 2).period.toNat ∧
    (({ ring 2 with opening := true }.arrived 0 = false ∧ { ring 2 with opening := true, got := [(0, 128)] }.arrived 0 = true) ∧
      ¬(ring 2).n ≤ (ring 2).sent + 1 ∧ (ring 2).n ≤ { ring 2 with sent := 1 }.sent + 1 ∧ { ring 2 with broken := true }.broken = true) ∧
    ((ring 3).nexts + 3 ≤ (ring 3).n ∧ (ring 3).arrived 1 = false ∧ { ring 3 with got := [(1, 128)] }.arrived 1 = true ∧
      (((bare .f).withTask fun t => { t with ring := some (ring 3) }).taskOf 788).isSome = true) := by
  unfold validRef; decide +kernel


/-- A node past every written byte of its tree is zero. -/
theorem zero_node (s : State) (tr i : Nat) (h : ∀ x ∈ s.memory.bytes, x.1 < tr + 1048576 + 128 * i) (port : ∀ p n, s.portOver p n = false)
    (clean : (s.memory.clrRows.isEmpty && s.memory.clrBlocks.isEmpty && s.memory.check.isEmpty) = true) : s.node tr i = nodeOf 0 := by
  have none : s.memory.bytes.filter (fun x => decide (tr + 1048576 + 128 * i ≤ x.1) && decide (x.1 < tr + 1048576 + 128 * i + 128)) = [] := by
    rw [List.filter_eq_nil_iff]
    intro x hx
    have := h x hx
    simp only [Bool.and_eq_true, decide_eq_true_eq]
    omega
  have zeros : ∀ lo n : Nat, Sparse.sliceFrom (0 : Byte) [] lo n = List.replicate n 0 := by
    intro lo n
    induction n generalizing lo with
    | zero => rfl
    | succ n ih => rw [Sparse.sliceFrom, ih, List.replicate_succ]
  have bytes : natOfBytes (List.replicate 128 0) = 0 := by decide +kernel
  simp only [State.node, State.peekN, State.numAt, State.bytesAt, port, clean, Sparse.slice, none, Sparse.rising, zeros, if_true,
    Bool.false_eq_true, if_false, bytes]

theorem here_withChild : treeHere (withChild .f) (treeAt 0 0) := by
  intro i hi
  by_cases h : i < 2
  · have zero : (withChild .f).resolve .read [(0, 512)] = .ok [[(0, 512)]] := by decide +kernel
    have zero' : (withChild .f).resolve .read [(0, 0)] = .ok [[]] := by decide +kernel
    have hs : (withChild .f).segTokens (treeAt 0 0) = 16 := by decide +kernel
    have far : isRemote (withChild .f) (0, 512) = false ∧ (withChild .f).lostAt 0 = false := by decide +kernel
    have hn : ((withChild .f).node (treeAt 0 0) i).toks = 0 ∧ ((withChild .f).node (treeAt 0 0) i).kvl = 0 ∧
        ((withChild .f).node (treeAt 0 0) i).kvn = 0 ∧ ((withChild .f).node (treeAt 0 0) i).ref < 2 ^ 32 - 1 := by
      interval_cases i <;> decide +kernel
    refine ⟨hn.2.2.2, fun gs hg g hm => ?_, fun gs hg g hm => ?_⟩
    · rw [hn.1, hs, zero] at hg
      cases hg
      rw [List.mem_singleton.mp hm]
      exact far
    · rw [hn.2.1, hn.2.2.1, zero'] at hg
      cases hg
      cases hm
  · have top : ∀ x ∈ (withChild .f).memory.bytes, x.1 < treeAt 0 0 + 1048576 + 256 := by decide +kernel
    have port : ∀ p n, (withChild .f).portOver p n = false := no_port _ (by decide +kernel)
    rw [zero_node (withChild .f) (treeAt 0 0) i (fun x hx => by have := top x hx; omega) port (by decide +kernel)] at hi
    exact absurd hi (by decide)

theorem test_meets_StarterInstructionsActOnTheirTree_completes :
    (withChild .f).created (treeAt 0 0) = true ∧ (withChild .f).resolve .read [(0, 0)] = .ok [[]] ∧
    1 < (withChild .f).nodeCap (treeAt 0 0) ∧ ((withChild .f).node (treeAt 0 0) 1).used = true ∧ ((withChild .f).node (treeAt 0 0) 0).ref = 0 ∧
    (withChild .f).slotOf 267264 = none ∧ (withChild .f).me.owner = some 267264 ∧ (withChild .f).plain ∧ (withChild .f).me.wait.get .w ≠ .meet 51 := by
  unfold State.plain; decide +kernel

theorem test_meets_StarterInstructionsActOnTheirTree_record :
    (withChild .f).resolve .read [(0, 512)] = .ok [[(0, 512)]] ∧ (withChild .f).ordinary (0, 512) ∧ (withChild .f).movers.copies = [] ∧
    succeeds ((withChild .f).load .read 0 512) (fun r => r.1 == 0) = true ∧ depositFits (withChild .f) 0 := by
  refine ⟨by decide +kernel, ?_, by decide +kernel, by decide +kernel, ?_⟩
  · unfold State.ordinary; decide +kernel
  · iterate 9 refine ⟨by decide +kernel, ?_⟩
    refine ⟨⟨[(0, 512)], [], by decide +kernel, by decide +kernel, ?_, by decide +kernel, by decide +kernel, by simp⟩, fun l w _ q hq => ?_⟩
    · unfold State.ordinary; decide +kernel
    · simp [unpack, field] at hq

/-- The rest of the hypotheses on barriers, regions and requests: no replay slot, no block held back, and the task with its ring. -/
theorem test_meets_QueuedUnitsTakeRequests_rest :
    ((withBarrier .w).me.owner = some 267264 ∧ (withBarrier .w).slotOf 267264 = none ∧ (owner0 .w).withObject.slotOf 267264 = none) ∧
    ((owner0 .w).withObject.taskOf 788 = some (267264, Task.start 1044 0 788, Launch.firmware 788) ∧ (Task.start 1044 0 788).crm < 16) ∧
    (bare .w).edge.churn = [] ∧ (bare .w).logNext = .act ∧ (Task.start 1044 0 788).ring = none ∧ (ring 2).opening = false ∧ (ring 2).closing = false ∧ (ring 2).broken = false := by
  decide +kernel

/-- No port page meets any region of that module. -/
theorem test_meets_ShadowRegionsOpenAndPublish_ports (p : Nat) : (owner0 .w).portOver (p / 16 * 16) 16 = false :=
  no_port _ (by decide +kernel) _ _

/-- A ring that a late CHN.BEG opens is broken at once; one at the last cycle of its time is not. The task's ring, if any, has broken. -/
theorem test_meets_QueuedUnitsTakeRequests_late :
    (Task.start 1044 0 788).ring = none ∧ { ring 2 with broken := true }.opening = false ∧
    succeeds (({ withRecords .w with ccnt := 0 } : State).openRing (mw 0 1 0))
      (fun r => decide (r.2.ccnt.toNat ≤ r.1.t0.toNat + 16 * r.1.period.toNat)) = true ∧
    succeeds (({ withRecords .w with ccnt := BitVec.ofNat 64 (2 ^ 63) } : State).openRing (mw 0 1 0))
      (fun r => decide (r.1.t0.toNat + 16 * r.1.period.toNat < r.2.ccnt.toNat)) = true := by decide +kernel

/-- M waits at an MMAI, which it has fetched, whose slab 0 is held at unit h. -/
def splitAt (h : Nat) : State :=
  (mapped .m).setMe { (small .m).me with
    pc := .const 65536, holder := [(0, h + 1)], wait := ⟨.run, .memory, .run, .run⟩, held := .const (some (65536, .mmai (vw 0 0 0 .i8))) }

theorem test_meets_EngineEvents :
    (∀ x ∈ [Eng.f, .m, .v, .w], (tile .f).me.popped.get x = []) ∧ (tile .f).me.deadlocked = false ∧
    ((tile .f).setMe { tileCore with wait := ⟨.pop 1, .pop 4, .pop 16, .ended⟩ }).me.deadlocked = true ∧
    ((splitAt 5).awaitedParts 0 = [5] ∧ (splitAt 300).awaitedParts 0 = [300] ∧ 6 ∉ (splitAt 5).awaitedParts 0 ∧ (bare .f).awaitedParts 0 = []) ∧
    (bare .f).atInstruction 788 .m = true ∧ (bare .f).atInstruction 0 .m = false ∧ 5 ∉ (bare .f).edge.inReset ∧
    5 ∈ ((bare .f).setEdge { (bare .f).edge with inReset := [5] }).edge.inReset ∧ (bare .f).movers.prefetches = [] ∧ (bare .f).movers.run = none ∧
    ({ (bare .f).movers with prefetches := [⟨.root, 0, 0, 1, 0, 0⟩] } : Movers).prefetches = [⟨.root, 0, 0, 1, 0, 0⟩] ∧
    ((served id).nextPage ⟨req0 true, [], []⟩ = some 16 ∧ (served id).nextPage ⟨req0 true, [⟨0, 16, 0, []⟩], []⟩ = none) := by decide +kernel

theorem test_meets_EngineEvents_late :
    (mapped .f).withObject.servedBelow 8388608 8 = true ∧ pagePieces 8388608 8 = [(8388608, 8)] ∧ isRemote (mapped .f).withObject (8388608, 8) = false ∧
    (∃ x ∈ [(⟨0, .f, 0, none, 17⟩ : Failed)], x.stack = none ∧ x.core = (mapped .f).cur ∧ x.eng = (mapped .f).eng ∧ x.pc = (mapped .f).me.pc.get .f) := by
  refine ⟨by decide +kernel, by decide +kernel, by decide +kernel, ⟨_, List.mem_singleton.mpr rfl, rfl, rfl, rfl, rfl⟩⟩

theorem test_meets_LaunchesStartAndIssue :
    ((served id).queue 0).cfg.getLsbD 0 = true ∧ ((served id).queue 0).pending.length < Config.queueDepth ∧ ((served id).queue 1).cfg.getLsbD 0 = false ∧
    Config.queueDepth ≤ { Queue.zero with pending := List.replicate 4096 (0, []) }.pending.length ∧
    assoc (served id).sched.queues 0 = some { Queue.zero with cfg := 7, next := 7 } ∧
    (∀ j ∈ (served id).sched.queues.map (·.1), (served id).issueReady j = false) ∧
    (let s := served fun l => { l with phase := .held, arrived := [0] }; (s.sched.queues.map (·.1)).filter s.issueReady = [0]) ∧
    0 < { Queue.zero with balance := 1 }.balance ∧
    (let s := served fun l => { l with phase := .held, arrived := [0] }
     s.issueGap = 0 ∧ ({ s with sched := { s.sched with lastIssue := some 0 } } : State).issueGap = 16 ∧
     ({ s with ccnt := 15, sched := { s.sched with lastIssue := some 0 } } : State).issueGap = 1 ∧
     ({ s with ccnt := 16, sched := { s.sched with lastIssue := some 0 } } : State).issueGap = 0) := by decide +kernel

/-- A prefetch whose page is translated, one whose page is not, and one whose page may not be read. -/
theorem test_meets_EngineEvents_prefetch :
    (served id).resolveAs .tile 0 .read [(8192, 64)] = .ok [[(8192, 64)]] ∧ (served id).region 1024 = .dram ∧ pagePieces 8192 64 = [(8192, 64)] ∧
    (served id).pageOf .tile 0 (8192 / 524288) .read = .ok 0 ∧ ((mapped .f).withBytes [(2031616, 30)]).pageOf .tile 0 (8192 / 524288) .read = .error .translation ∧
    ((mapped .f).withBytes [(2031616, 27)]).pageOf .tile 0 (8192 / 524288) .read = .error .permission := by decide +kernel

/-- Stack unit 300 holds a slab of a waiting product; a promotion has a page to read. -/
theorem test_meets_EngineEvents_deadline :
    (∃ j ∈ (splitAt 300).awaitedParts 0, 256 ≤ j) ∧ (∀ j ∈ (splitAt 5).awaitedParts 0, j < 256) ∧
    (let r : Promotion := ⟨req0 true, [], []⟩
     let s : State := { served id with movers := { (served id).movers with run := some r } }
     s.movers.run = some r ∧ s.nextPage r = some 16) := by decide +kernel

theorem test_meets_LaunchEvents :
    (served fun l => { l with phase := .comm }).launch 0 = some { launch0 with phase := .comm } ∧ launch0.phase ≠ .comm ∧
    (let s := served fun l => { l with phase := .comm, cmds := [⟨1, 0, 0, .copy (.pad 0 0) (.pad 0 64) 8⟩] }; (s.ccnt - launch0.released).toNat < 1) ∧
    (let s := served fun l => { l with phase := .comm, cmds := [⟨0, 0, 0, .copy (.pad 0 0) (.pad 0 64) 8⟩] }
     0 ≤ (s.ccnt - launch0.released).toNat ∧ s.task 0 = some (Task.start 0 0 0) ∧ (Task.start 0 0 0).core ≠ stepAsker 0 ∧ launch0.preempt ≠ .saved) ∧
    (let s := served fun l => { l with phase := .held, ended := [0] }
     s.launch 0 = some { launch0 with phase := .held, ended := [0] } ∧ [0].length = launch0.n ∧ s.sched.tasks.all (fun x => x.2.ring.isNone) = true) ∧
    (let s := (served fun l => { l with phase := .held, ended := [0] }).withTask0 fun t => { t with ring := some (ring 2) }
     s.launch 0 = some { launch0 with phase := .held, ended := [0] } ∧ (ring 2).broken = false ∧
     (0, { Task.start 0 0 0 with ring := some (ring 2) }) ∈ s.sched.tasks) ∧
    (let l := { launch0 with wdg := 1, charged := 1800 }; (served fun _ => l).launch 0 = some l ∧ (served fun _ => l).expired 0 l = true ∧
      (served fun _ => l).expired 0 { l with charged := 1799 } = false) ∧
    (served fun l => { l with preempt := .pending }).launch 0 = some { launch0 with preempt := .pending } ∧ launch0.ended.length ≠ launch0.n ∧
      launch0.moving = [] ∧ launch0.preempt ≠ .pending ∧ launch0.ending = none ∧ launch0.doom = none ∧
      (served id).overdue { launch0 with preempt := .pending } = false ∧
      ({ served id with ccnt := 90000 } : State).overdue { launch0 with preempt := .pending } = true ∧ assoc (served id).cores (ghostOf 0) = none := by decide +kernel

/-- A window of one f32 element whose dest stands at bit 65536. -/
def window0 : RedWin := ⟨32768, 0, 1, .f32, true, 0, [0], [(65536, 32)], []⟩

/-- The launch of its task in its communication step, after the commands, with what a link has brought of the window. -/
def merging (what : Brought) : State :=
  let s := served fun l => { l with phase := .comm, wins := [window0] }
  s.setEdge { s.edge with partials := [⟨what, 0, 8192, .f32, 0, [0, 0, 128, 63]⟩] }

theorem test_meets_LaunchEvents_merged :
    (merging .merged).launch 0 = some { launch0 with phase := .comm, wins := [window0] } ∧ (merging .merged).atHome window0 = true ∧
    0 < window0.n ∧ window0.n ≤ 896 / window0.ty.width ∧ window0.ty = .f32 ∧ launch0.cmds = [] ∧ launch0.arrived = [] ∧
    (merging .merged).plain ∧ (merging .merged).ordinary (65536, 32) ∧ (merging .merged).flashHeld [(65536, 32)] = false ∧ (merging .merged).memory.shadows = [] ∧
    window0.named 0 ⟨.merged, 0, 8192, .f32, 0, [0, 0, 128, 63]⟩ = true ∧ (merging .lost).mergeLost 0 window0 = true ∧
    { launch0 with ending := some 2 }.ending.isSome = true := by
  unfold State.plain State.ordinary; decide +kernel

theorem test_meets_HandOverEvents :
    (let s := served fun l => { l with moving := [(0, 0x80000001, false)] }
     s.task 0 = some (Task.start 0 0 0) ∧ s.launch 0 = some { launch0 with moving := [(0, 0x80000001, false)] } ∧
     ([(0, 0x80000001#64, false)].find? fun y => y.1 == (Task.start 0 0 0).role) = some (0, 0x80000001, false) ∧
     entCore (0x80000001#64).toNat ≠ (Task.start 0 0 0).core) ∧
    ((served id).setMe { tileCore with holder := [(3, 2)] }).me.holder.get 0 3 = 1 + 1 ∧ ((served id).core 0).holder.get 0 3 = 0 ∧
    (Task.start 0 0 0).saved = none ∧ { Task.start 0 0 0 with saved := some (.const .run, none) }.saved.isSome = true ∧
    ((served id).core 0).wait.m ≠ .memory ∧ ((splitAt 5).core 0).wait.m = .memory ∧ ((splitAt 5).core 0).holder.get 0 0 ≠ 0 ∧
    (served id).tornSlab 1 3 = false := by decide +kernel

theorem test_meets_UnitEvents :
    (served id).movers.run = none ∧ (served id).nextRequest = none ∧ (served id).memory.check = [] ∧
    (∀ b ∈ [true, false], ({ served id with movers := { (served id).movers with queue := [req0 b] } } : State).nextRequest = some (req0 b)) ∧
    (∃ q ∈ [req0 true], q.part = ((served id).movers.last + 1 + 0) % 16) ∧ (⟨req0 true, [], []⟩ : Promotion).req.promote = true ∧
    256 ∉ (served id).edge.inReset ∧ ((served id).core 0).stopped = none ∧ (served id).memory.clrRows = [] ∧
    (served id).walk 0 0 = .ok (31, 1) ∧ wField 0 19 39 = 0 ∧
    ([(3, 8388607), (8388608 * 16, 8388608 * 16 + 1)].filter fun x => decide (x.1 < 16 * 8388608) && decide (0 < x.2)) = [(3, 8388607)] ∧
    (∃ x ∈ [(0, 5, false)], x.1 = 0 ∧ x.2.2 = false ∧ x.2.1 < 8388608) ∧ ((served id).core 0).owner.isSome = true ∧ ((served id).core 0).mode = .tile ∧
    (∀ r ∈ (served id).edge.records, ¬(r.root = true)) ∧ (0x20 : BitVec 6).getLsbD 5 = true ∧ (19 : BitVec 6).toNat < 20 ∧ 20 ≤ (20 : BitVec 6).toNat := by
  decide +kernel

theorem test_meets_UnitEvents_wake :
    (∀ e, (({ bare .f with cores := [(788, { Core.rootReset with wait := .const (.meet 51) })] } : State).core 788).wait.get e = .meet 51) ∧
    ((bare .f).core 788).wait.get .f ≠ .meet 51 := ⟨fun e => by cases e <;> decide +kernel, by decide +kernel⟩

theorem test_meets_PartitionEvents :
    (owner0 .f).partOfVf 0 = some 0 ∧ (owner0 .f).partOfVf 1 = none ∧ partOfRecord (2 ^ 63) = none ∧
    (match partOfRecord 1 with | some y => y.slc.testBit (sliceOf y.ptr / 4) && decide (y.ptr < 412316860416) && !y.enabled | none => false) = true ∧
    (match partOfRecord (1 + 2 ^ (128 + 21)) with | some y => y.slc.testBit 0 && y.enabled | none => false) = true ∧
    ((bare .f).withBytes [(64, 1)]).numAt (wField 64 6 46 * 64) 64 = 1 := by decide +kernel

theorem test_meets_FirmwareActions :
    (served id).ctlOf 0 = some 0 ∧ ((8 : Word).getLsbD 3 = true ∧ wField (32 : Word) 5 27 ≠ 0 ∧ (7 : Word).getLsbD 3 = false ∧ wField (7 : Word) 5 27 = 0) ∧
    (wField (64 : Word) 6 2 ≠ 0 ∧ wField (2 ^ 16 : Word) 16 16 ≠ 0 ∧ wField (256 : Word) 6 2 = 0 ∧ launch0.n ≤ wField (256 : Word) 8 8 ∧ wField (0 : Word) 8 8 < launch0.n) ∧
    (served id).launch 0 = some launch0 ∧ (served id).launch 1 = none ∧ launch0.preempt = .none ∧
    (served fun l => { l with preempt := .pending }).launch 0 = some { launch0 with preempt := .pending } ∧
    (let l := { launch0 with preempt := .saved, table := [0x80000001] }; (served fun _ => l).launch 0 = some l ∧ (served fun _ => l).badResume 0 l = none) ∧
    (let s := (served id).setMe { tileCore with stopped := some 5 }
     s.stoppedClass 0 = some 5 ∧ s.mayReplay 0 = false ∧ s.entryFits 0 0x80000001 (some 0) = true ∧ s.entryFits 0 0x80000000 (some 0) = true ∧ entOk 0 = false) ∧
    (let s := ((served fun l => { l with slots := [0] }).setMe { tileCore with stopped := some 5 }).withBytes [(134217736, 3)]
     s.stoppedClass 0 = some 5 ∧ s.mayReplay 0 = true) ∧
    (entOk 0x80010000 = true ∧ field (launch0.table.getD 0 0).toNat 16 2 < field 0x80010000 16 2) ∧
    (wField ((served id).withObject.partCsr 0 273) 0 17 = 1 ∧ ((served id).withObject.objects 0)[0]? = some 131072 ∧ 1 < (served id).withObject.objectHome 131072) := by
  decide +kernel

theorem test_meets_RecordsStandInTheirQueues :
    (∃ r ∈ [(⟨true, 0, []⟩ : Rec)], r.root = true) ∧ (bare .f).edge.records = [] ∧ (0 + 1) % 256 ≠ wField ((bare .f).rootCsr 577) 0 16 % 256 ∧
    (wField (255 : Word) 0 16 + 1) % 256 = wField ((bare .f).rootCsr 577) 0 16 % 256 ∧ (bare .f).plain ∧ (bare .f).ctlOf 0 = none ∧ (served id).ctlOf 0 = some 0 ∧
    (let n := max 1 (wField ((served id).ctl 0 275) 0 17); n = 1 ∧ (0 + 1) % n = wField ((served id).ctl 0 278) 0 16 % n) ∧
    (let s := (served id).setCtl 0 275 4; (wField (s.ctl 0 279) 0 16 + 1) % 4 ≠ wField (s.ctl 0 278) 0 16 % 4) := by
  unfold State.plain; decide +kernel

theorem test_meets_HostAccesses :
    (served id).partOfVf 0 = some 0 ∧ (served id).partOfVf 15 = none ∧ (served id).resolveAs .tile 0 .read [(8192, 64)] = .ok [[(8192, 64)]] ∧
    (served id).plain ∧ (served id).ordinary (8192, 64) ∧ (served id).memory.shadows = [] ∧
    succeeds ((tile .f).resolveAs .tile 0 .read [(0, 8)]) (fun _ => true) = false ∧
    (let s := (served id).setRootCsr 544 65536
     s.portPage 65536 = some (0, 0) ∧ s.appendOf (cutOver [(524288, 512)] 7) = some (0, 0, [7, 0, 0, 0, 0, 0, 0, 0]) ∧
     s.appendOf (cutOver [(524288, 64)] 7) = none ∧ s.resolveAs .tile 0 .write [(524288, 512)] = .ok [[(524288, 512)]]) := by
  unfold State.plain State.ordinary; decide +kernel

theorem test_meets_HostAccesses_rest :
    (let s := (served id).setRootCsr 544 65536
     s.appendOf [((8 * ((s.rootCsr 544).toNat + 0), 64), 7)] = none ∧ s.appendOf [((8 * ((s.rootCsr 544).toNat + 0), 512), 7)] = some (0, 0, [7, 0, 0, 0, 0, 0, 0, 0])) ∧
    (served id).edge.posted = [] ∧ (served id).movers.copies = [] ∧ (served id).flashHeld [(8192, 64)] = false ∧
    (([(0, .memory, 0, [1])] : List (Nat × HostRegion × Nat × List Byte)).find? fun y => y.1 == 0) = some (0, .memory, 0, [1]) ∧
    (match (tile .f).resolveAs .tile 0 .read [(0, 8)] with | .error (.trap _) => true | _ => false) = true := by decide +kernel

/-- A demotion is served while a promotion runs, another promotion is not. -/
theorem test_meets_UnitEvents_queue :
    let r : Promotion := ⟨req0 true, [], []⟩
    let s (q : CrmReq) : State := { served id with movers := { (served id).movers with run := some r, queue := [q] } }
    (s (req0 false)).nextRequest = some (req0 false) ∧ (s (req0 true)).nextRequest = none ∧ (s (req0 true)).nextPage r = some 16 ∧
    (s (req0 true)).nextPage ⟨req0 true, [⟨0, 16, 0, []⟩], []⟩ = none := by decide +kernel

/-- Records that are refused: PTR outside the record's slices, and a slice or a virtual function of an enabled partition. -/
theorem test_meets_PartitionEvents_refused :
    (match partOfRecord 2 with | some y => y.slc.testBit (sliceOf y.ptr / 4) == false | none => false) = true ∧
    (match partOfRecord (1 + 2 ^ (128 + 21)) with
      | some y => y.enabled && (owner0 .f).parts.any (fun o => decide (o.1 ≠ 1) && o.2.enabled && y.shares o.2 && y.vfn == o.2.vfn) | none => false) = true := by
  decide +kernel

theorem test_meets_FirmwareActions_rest :
    ({ launch0 with ended := [0] }.ended.length = launch0.n ∧ launch0.ended.length ≠ launch0.n) ∧
    (served id).withObject.badRecord 131072 = false ∧ (served id).withObject.objectHome 131072 = 2 ∧
    ((served id).withObject.withBytes [(131088, 16)]).badRecord 131072 = false ∧
    ((served id).withObject.withBytes [(131088, 16)]).objectHome 131072 ≤ 1 ∧
    (served id).withObject.objectHome 131072 ≤ 2 := by decide +kernel

/-- A saved launch whose replay slot stands in the flash tier, with units that fail. -/
def savedLaunch : Launch := { launch0 with preempt := .saved, table := [0x80000001], slots := [0] }
def torn (units : List Nat) : State :=
  let s := (served fun _ => savedLaunch).withTask0 fun t => { t with saved := some (.const .run, none) }
  { s with memory := { s.memory with badUnits := units }, edge := { s.edge with ctlCsr := [(274, BitVec.ofNat 64 flashBase)] } }

theorem test_meets_FirmwareActions_torn :
    (torn []).badResume 0 savedLaunch = none ∧ (torn []).tornImage 0 savedLaunch = none ∧ savedLaunch.preempt = .saved ∧
    (torn [41472]).badResume 0 savedLaunch = none ∧ (torn [41472]).tornImage 0 savedLaunch = some 0 := by
  decide +kernel

/-- Core 768 halts in control mode, and the root core in root mode. -/
theorem test_meets_RecordsStandInTheirQueues_halted :
    let s := (ctl .f).setMe { ctlCore with wait := .const (.meet 51) }
    s.queueOf 768 = 768 ∧ (s.core 768).mode ≠ .tile ∧ (∀ e, (s.core 768).wait.get e = .meet 51) ∧ (bare .f).queueOf 788 = rootId ∧
    (s.plain ∧ s.portOver 0 256 = false) := by
  refine ⟨by decide +kernel, by decide +kernel, fun e => by cases e <;> decide +kernel, by decide +kernel, ?_⟩
  and_intros
  all_goals decide +kernel

/-- The pages of partition 0 lie in the flash tier, which has no die that takes a write yet. -/
def flashless : State :=
  let s := served id
  { s with
    parts := [(0, { part0 with fnl := 2 ^ 40 })]
    memory := { s.memory with bytes := [(0, 1), (2, 31), (2031616, 31), (2031621, 4)] }
    edge := { s.edge with ident := [], posted := [(0, .memory, 64, [1])] } }

/-- A posted write waits, and a write that the function makes after it. -/
theorem test_meets_HostAccesses_waits :
    flashless.partOfVf 0 = some 0 ∧ (flashless.edge.posted.find? fun y => y.1 == 0) = some (0, .memory, 64, [1]) ∧
    (match ({ flashless with edge := { flashless.edge with posted := [(0, .memory, 0, [2])] } } : State).hostWrite 0 0 .memory 64 [1] with
      | .error (.wait _) => true | _ => false) = true := by decide +kernel

/-! ### Edges: links, requests from outside, flash and power -/

/-- A Berast header of a kind, with reserved and target fields 0, which this module takes after reset. -/
def flit (kind : BitVec 8) (addr : BitVec 40) (payload : List Byte) : Flit := ⟨kind, 0, 0, 0, 0, 0, addr, 0, 0, payload⟩
def oflit (kind : BitVec 6) (slots fld : List Byte) : OFlit := ⟨kind, 0, 0, 0, 0, 0, slots, fld⟩

/-- Partition 0 owns all of DRAM and its endpoint key is 0. -/
def keyed : State := let s := owner0 .f; { s with edge := { s.edge with rootCsr := [(608, 65536)] } }

/-- Roles 0 and 1 of a launch stand in the ring r on cores 0 and 1. -/
def ringed (r : Ring) : State :=
  let s := mapped .f
  { s with
    cores := [(0, tileCore), (1, { tileCore with owner := some 1 })]
    sched := { s.sched with
      launches := [(0, { launch0 with table := [0, 0] })]
      tasks := [(0, { Task.start 0 0 0 with ring := some r }), (1, { Task.start 0 1 1 with ring := some { r with me := 1 } })] } }

/-- An unanswered request of a core. -/
def ask (k : CoreId) : Ask := ⟨k, .f, some 5, flit 1 0 [], none⟩

def asking (k : CoreId) : State := let s := owner0 .f; { s with edge := { s.edge with asks := [ask k] } }

def withGroup (g : Group) : State := let s := owner0 .f; { s with edge := { s.edge with groups := [(0, 0, g)] } }

theorem test_meets_FaultsStopOrEnter_ring :
    let s := ringed (ring 2)
    (s.core 0).mode = .tile ∧ (s.core 0).stopped = none ∧ (s.core 0).owner = some 0 ∧ s.ringOf 0 = some (ring 2) := by decide +kernel

/-- R354: a fault breaks the ring at the other member too. -/
theorem test_fault_breaks_ring :
    ((ringed (ring 2)).takeFault 0 .f (mkTrap .storage)).ringOf 1 = some { ring 2 with me := 1, broken := true } := by decide +kernel

/-- R369: a leaf of 4 TiB from byte 0 on lies outside the partition's DRAM; one of 512 MiB does not, where every slice is owned. -/
theorem test_large_leaf :
    (mapped .f).leafWithin 0 0 0 = false ∧ (mapped .f).leafWithin 0 0 1 = true ∧
    ({ mapped .f with parts := [(0, { part0 with slc := 2 ^ 48 - 2 })] } : State).leafWithin 0 0 1 = false := by decide +kernel

theorem test_meets_ChurnSendsAndTimeouts :
    ((bare .f).ringOf 0 = none ∧ (bare .f).edge.churn = []) ∧
    (let r := ring 2
     let s := ringed r
     s.ringOf 0 = some r ∧ s.task 0 = some { Task.start 0 0 0 with ring := some r } ∧ s.launch 0 = some { launch0 with table := [0, 0] } ∧ 0 ∉ launch0.ended ∧
     (r.broken = false ∧ r.sent + 2 ≤ r.n ∧ s.openLate 0 r = false ∧ r.t0.toNat + r.sent * r.period.toNat ≤ s.ccnt.toNat ∧ r.sent = 0) ∧
     s.memberTask 0 r.succ = some 1 ∧ s.savedAt 0 = none ∧ s.savedAt 1 = none ∧ r.sent < r.slots ∧ s.ringOf 1 = some { r with me := 1 } ∧ r.opening = false) ∧
    (let r := { ring 2 with sent := 1 }
     (ringed r).ringOf 0 = some r ∧ r.n < r.sent + 2 ∧ { ring 3 with sent := 1, got := [(0, 128)] }.arrived 0 = true) ∧
    (let r := { ring 3 with sent := 1 }
     (ringed r).openLate 0 r = false ∧ r.broken = false ∧ r.sent + 2 ≤ r.n ∧ r.arrived 0 = false) ∧
    (let r := { ring 2 with members := [(0, 0), (5, 1)] }
     (ringed r).memberTask 0 r.succ = none ∧ r.sent + 2 ≤ r.n ∧ (ringed r).openLate 0 r = false ∧ r.succ.1 < 512) ∧
    (let r := { ring 4 with slots := 1, sent := 1, got := [(0, 128)] }
     (ringed r).ringOf 1 = some { r with me := 1 } ∧ r.t0.toNat + r.sent * r.period.toNat ≤ ({ ringed r with ccnt := r.t0 + r.period } : State).ccnt.toNat ∧ r.slots ≤ r.sent ∧ r.freed (r.sent - r.slots) = false ∧ r.arrived 0 = true ∧ (ringed r).openLate 0 r = false) ∧
    (let r := { ring 2 with members := [(0, 0), (5, 1)], opening := true, period := 0 }
     (ringed r).ringOf 0 = some r ∧ r.opening = true ∧ r.arrived 0 = false ∧ r.broken = false ∧ (ringed r).memberTask 0 r.pred = none ∧ r.checked = false ∧
     r.t0.toNat + 16 * r.period.toNat < ({ ringed r with ccnt := 1 } : State).ccnt.toNat ∧ (ringed r).ccnt.toNat ≤ r.t0.toNat + 16 * r.period.toNat) ∧
    ((Task.start 0 0 0).kept = none ∧ (ringed (ring 2)).tornPad 0 0 1024 = false ∧ (ringed (ring 2)).waitsAtNxt 0 = false) ∧
    ((5 : Nat) ≠ (ringed (ring 2)).ownAcc ∧ (((ringed (ring 2)).setRootCsr 594 (2 ^ 36 - 1)).withBytes [(40, 1)]).routed 5 = true) := by decide +kernel

/-- A send of a broken ring: a running task that awaits no block faults. -/
theorem test_meets_ChurnSendsAndTimeouts_broken :
    let r := { ring 2 with broken := true }
    let s := ringed r
    s.task 0 = some { Task.start 0 0 0 with ring := some r } ∧ r.sent + 2 ≤ r.n ∧ s.launch 0 = some { launch0 with table := [0, 0] } ∧
    r.t0.toNat + r.sent * r.period.toNat ≤ s.ccnt.toNat ∧ launch0.phase = .running ∧ 0 ∉ launch0.arrived ∧ r.closing = false ∧ r.opening = false ∧
    (s.core 0).owner = some 0 ∧ (s.core 0).stopped = none ∧ (s.core 0).wait.f ≠ .memory ∧ ¬(5 : Word).toNat ≤ s.ccnt.toNat := by decide +kernel

theorem test_meets_HomeSlicesServeRequests :
    (let s := owner0 .f
     (s.ownsSectors 0 1024 2 = true ∧ 1024 + 16 * 2 ≤ s.dramBytes ∧ s.plain ∧ s.memory.shadows = [] ∧ s.ordinary (8192, 128) ∧ s.ordinary (8320, 128) ∧
       s.edge.rootCsr.get 0 544 = 0) ∧
     s.dramBytes < 412316860416 * 16 + 16 * 1 ∧ (1024 + 16 * 1 ≤ s.dramBytes ∧ s.ownsSectors 1 1024 1 = false)) ∧
    (let w := widthOf (natOfBytes ((([0, 0, 0] : List Byte).drop 1).take 1) % 8)
     let o := natOfBytes ((([0, 0, 0] : List Byte).drop 2).take 1)
     o % w = 0 ∧ o + w ≤ 128) ∧
    (5 : Word).toNat ≤ 65535 ∧ natOfBytes ((([0, 0, 0, 0, 0, 0, 0, 0] : List Byte).drop 0).take 8) % 256 = 0 ∧
    natOfBytes ((([2, 0, 0, 0, 0, 0, 0, 0] : List Byte).drop 0).take 8) % 256 = 2 ∧
    natOfBytes ((([1, 0, 0, 0, 0, 0, 0, 0] : List Byte).drop 0).take 8) % 256 = 1 ∧ natOfBytes ((([3, 0, 0, 0, 0, 0, 0, 0] : List Byte).drop 0).take 8) % 256 = 3 ∧
    (Asker.berast (flit 4 0 [])).same (.berast (flit 4 0 [])) = true ∧ (Asker.berast (flit 4 0 [])).same (.berast { flit 4 0 [] with src := 1 }) = false ∧
    (withBarrier .f).waitStatus (barrierAt 0 0) 5 = none ∧ (withBarrier .f).waitStatus (barrierAt 0 0) 0 = some 2147483648 := by
  unfold State.plain State.ordinary; decide +kernel

/-- Where no port page is configured, no address stands in one. -/
theorem test_meets_HomeSlicesServeRequests_noPort (a : Nat) : (owner0 .f).portPage a = none := by
  have h : ∀ q ∈ List.range 16, (owner0 .f).edge.rootCsr.get 0#64 (544 + q) = 0#64 := by decide +kernel
  rw [State.portPage, List.find?_eq_none.mpr fun q hq => by simp [h q hq]]
  rfl

theorem test_meets_BerastFlits :
    (∀ x ∈ [(1, 33), (2, 34), (3, 35), (4, 36)], keyed.flitTaken (flit x.1 1024 []) x.1.toNat = true ∧ keyed.flitTaken (flit x.1 1024 []) x.2 = false) ∧
    (keyed.flitTaken (flit 7 0 []) 7 = true ∧ keyed.partOfKey (flit 7 0 []).key = some 0 ∧ (flit 1 1024 []).addr.toNat % 16 = 0 ∧ (flit 1 1025 []).addr.toNat % 16 ≠ 0) ∧
    (∀ k ∈ [33, 34, 35, 36, 62], (asking 788).flitTaken (flit k 0 [4]) k.toNat = true) ∧ (flit 62 0 [4]).payload.headD 0 ≠ 3 ∧ (flit 62 0 [3]).payload.headD 0 = 3 ∧
    ((asking 788).edge.asks.find? fun y => y.flit.tag == (flit 33 0 []).tag && y.flit.dst == (flit 33 0 []).src && y.answer.isNone) = some (ask 788) ∧
    keyed.edge.asks = [] ∧ keyed.edge.remotes = [] ∧ (bare .f).partOfKey 0 = none ∧
    (flit 1 0 []).src.toNat / 512 = ((bare .f).rootCsr 592).toNat % 2 ^ 21 / 512 ∧ { flit 1 0 [] with src := 512 }.src.toNat / 512 ≠ 0 ∧
    (([⟨flit 4 0 [], none, 0, 1, 2, 0⟩] : List Remote).find? fun y => y.flit.tag == (flit 36 0 []).tag && y.flit.dst == (flit 36 0 []).src) = some ⟨flit 4 0 [], none, 0, 1, 2, 0⟩ ∧
    (natOfBytes (([0, 0, 0, 0, 1, 0, 0, 0] : List Byte).take 8) = 4294967296 ∧ natOfBytes (([0, 0, 0, 0, 2, 0, 0, 0] : List Byte).take 8) ≠ 4294967296) ∧
    (∀ k ∈ [5, 37], keyed.flitTaken (flit k 1024 []) k.toNat = true ∧ keyed.partOfKey (flit k 1024 []).key = some 0 ∧ keyed.ownsSectors 0 (1024 + 112 * 0) 7 = true) ∧
    ((flit 5 0 []).nsec.getLsbD 0 = false ∧ { flit 5 0 [] with nsec := 1 }.nsec.getLsbD 0 = true) ∧
    { keyed with dramGiB := 16 }.ownsSectors 0 0x7fffffff00 7 = false ∧ (ask 788).port ≠ some 4 ∧ (ask 788).port = some 5 := by decide +kernel

/-- The task's ring of two members, the other of which is on module 5, in a module with keys. -/
def joined (r : Ring) : State :=
  let m := mapped .f
  { m with
    sched := { m.sched with tasks := [(0, { Task.start 0 0 0 with ring := some r })] }
    edge := { m.edge with rootCsr := [(608, 65536)] } }

theorem test_meets_BerastFlits_block :
    (let r := { ring 2 with members := [(0, 0), (5, 1)], rid := 7, checked := true }
     let s := joined r
     let x := { flit 6 (7 * 2 ^ 24) (List.replicate 112 1) with src := 5 }
     s.flitTaken x 6 = true ∧ s.partOfKey x.key = some 0 ∧ s.chnTarget 0 x = some (0, r) ∧ s.ringOf 0 = some r ∧ x.addr.toNat % 65536 = 0 ∧
     r.arrived x.tag.toNat = false ∧ r.room x.tag.toNat = true ∧ x.tag.toNat + 2 ≤ r.n ∧ s.savedAt 0 = none ∧
     min 112 (r.bytes - x.addr.toNat % 65536) ≤ x.payload.length ∧ r.slotBit x.tag.toNat % 8 = 0 ∧ s.chnTarget 0 { x with src := 6 } = none ∧
     (r.arrived 0 = false ∧ { r with got := [(0, 128)] }.arrived 0 = true ∧ r.room r.slots = false ∧ r.n < 1 + 2)) ∧
    (let r := { ring 2 with members := [(0, 0), (5, 1)], rid := 7 }
     let x := { flit 6 (7 * 2 ^ 24 + 65504) (bytesOfNat 8 r.shape) with src := 5 }
     (joined r).chnTarget 0 x = some (0, r) ∧ x.addr.toNat % 65536 = 65504 ∧ r.checked = false ∧ natOfBytes (x.payload.take 8) = r.n + 65536 * r.slots + 4294967296 * r.bytes ∧
     { x with addr := 7 * 2 ^ 24 + 65472 }.addr.toNat % 65536 = 65472 ∧ field x.addr.toNat 24 16 = r.rid ∧ (joined r).taskPart 0 = 0 ∧
     (∃ m ∈ r.members, m.1 = x.src.toNat % 512)) := by decide +kernel

theorem test_meets_OszinSectorMessages :
    (∀ n ∈ [1, 2, 33, 34], oflitOk (oflit n [] []) n.toNat = true ∧ oflitOk { oflit n [] [] with rsv := 1 } n.toNat = false) ∧
    (let whole (k : Nat) : List Byte := List.replicate 16 0 ++ (codeCheck k (List.replicate 16 0)).map fun c => BitVec.ofNat 8 c
     let x := oflit 2 (whole 0 ++ whole 1) [1]
     (bare .f).sectorsRefused 0 (oszinSectors 0 x) = none ∧ (oszinSectors 0 x).length = 2 ∧ x.slots.length = 40 ∧ (bare .f).plain ∧
     (∀ a ∈ oszinSectors 0 x, a + 16 ≤ (bare .f).dramBytes) ∧
     (∀ j, j < 2 → ((List.range 4).map fun i => x.slots.getD (20 * j + 16 + i) 0) =
       (codeCheck ((oszinSectors 0 x).getD j 0 / 16) ((List.range 16).map fun i => x.slots.getD (20 * j + i) 0)).map (fun c => BitVec.ofNat 8 c)) ∧
     (let t := { bare .f with memory := (bare .f).memory.touch 0 16 }
      0 / 128 ∈ t.memory.lines)) ∧
    (let s := bare .f
     { s with edge := { s.edge with stacksOff := [0] } }.sectorsRefused 0 [0] = some 2 ∧ { s with edge := { s.edge with stacksLost := [0] } }.sectorsRefused 0 [0] = some 5 ∧
     s.sectorsRefused 0 [412316860416] = some 1) := by
  unfold State.plain; decide +kernel

theorem test_meets_OszinGroupsTablesAndBlocks :
    (∀ n ∈ [8, 9, 10, 11, 40, 16, 17, 18, 49], oflitOk (oflit n [] []) n.toNat = true) ∧
    (let s := bare .f
     0 ∉ s.edge.stacksOff ∧ 0 ∉ s.edge.stacksLost ∧ s.linkGroup 0 0 = none) ∧
    ((withGroup ⟨0, [], true, none, []⟩).linkGroup 0 0 = some ⟨0, [], true, none, []⟩ ∧ 0 ∉ (withGroup ⟨0, [], true, none, []⟩).edge.stacksOff) ∧
    (let g : Group := ⟨0, [], false, none, []⟩
     let x := oflit 9 [1, 0, 0, 0, 0, 0, 0, 0] [1]
     (withGroup g).linkGroup 0 0 = some g ∧ g.ops.length + (growOps 0 x).length ≤ 64 ∧ (growOps 0 x).length = 1 ∧
     (∀ o ∈ growOps 0 x, rowNum o.dst < (withGroup g).bankRows) ∧ (withGroup g).groupBad g.ops = false ∧ (withGroup g).groupRoom g.ops = true ∧
     (¬∃ c ∈ (withGroup g).edge.inReset, 256 ≤ c) ∧ ({ g with ops := growOps 0 x } : Group).usesSlice 0 = true ∧
     64 < (List.replicate 64 (⟨0, none⟩ : RowOp)).length + (growOps 0 x).length) ∧
    (slotsOk false (padTo 16 [] ++ padTo 16 []) = true ∧ slotsOk false (padTo 16 [16] ++ padTo 16 []) = false ∧ (bare .f).edge.slotHalf = [] ∧
      ([(0, 0 * 2 ^ 32 + 0, 1, List.replicate 32 0)] : List (Nat × Nat × Nat × List Byte)).find? (fun y => y.1 == 0) = some (0, 0, 1, List.replicate 32 0)) ∧
    (let x := oflit 49 [] []
     x.field.headD 0 = 0 ∧ x.sn.toNat < 2 ∧ { x with field := [1] }.field.headD 0 ≠ 0 ∧ 2 ≤ { x with sn := 2 }.sn.toNat) ∧
    (∃ b : List Byte, identOk 8 b = true) ∧ identOk (bare .f).height ((bare .f).identBlock 0) = identOk (bare .f).height ((bare .f).identBlock 0) := by
  iterate 6 refine ⟨by decide +kernel, ?_⟩
  refine ⟨?_, rfl⟩
  exact ⟨[0, 0, 0, 1, 8, 64, 32, 16, 0, 32, 0, 0, 0, 2, 1, 0, 0, 0, 0, 0, 8, 0, 0, 0], by decide +kernel⟩

/-- A group copies row 1 to row 0. A source sector that its code finds wrong makes it bad; an open region without a shadow area leaves no room. -/
theorem test_meets_OszinGroupsTablesAndBlocks_refused :
    let ops : List RowOp := [⟨rowKey 0 0 0 0, some (rowKey 0 0 0 1)⟩]
    let s := withGroup ⟨0, ops, false, none, []⟩
    (let m := s.setMemory { s.memory with check := [((rowLines (rowKey 0 0 0 1)).headD 0 / 16, 2 ^ 32 + 2 ^ 31)] }
     m.groupBad ops = true ∧ m.groupRoom ops = true ∧ m.linkGroup 0 0 = some ⟨0, ops, false, none, []⟩) ∧
    (s.setMemory { s.memory with shadows := [⟨0, 0, 0, 128, [((rowLines (rowKey 0 0 0 0)).headD 0, 16)]⟩] }).groupRoom ops = false ∧
    (s.setEdge { s.edge with inReset := [256] }).edge.inReset = [256] ∧ (⟨0, ops, false, none, []⟩ : Group).usesSlice (256 - 256) = true := by decide +kernel

/-- The words of STR.DROP, queued by a stack engine whose registers name node 1 of a tree. -/
def dropWork : QueuedWork :=
  let ws := encode (.strDrop (mw 1 2 3))
  ⟨0, BitVec.ofNat 32 (ws.getD 0 0), BitVec.ofNat 32 (ws.getD 1 0), [0, 1], 0, 0⟩

/-- The words of CHN.BEG over the ring record at bit 8192, queued by a stack engine. -/
def begWork : QueuedWork :=
  let ws := encode (.chnBeg (mw 0 1 0))
  ⟨0, BitVec.ofNat 32 (ws.getD 0 0), BitVec.ofNat 32 (ws.getD 1 0), [8192], 0, 0⟩

/-- That instruction waits for its first block, and the queued work with it. -/
theorem test_meets_OszinEngineMessages_waits : ∀ k ∈ [256, 512],
    (match ({ withRecords .w with cores := [(k, Core.rootReset)] } : State).queueWork k begWork with
      | .inr (none, _) => true | _ => false) = true := by decide +kernel

theorem test_meets_OszinEngineMessages :
    (∀ n ∈ [21, 24, 57, 58, 59, 60, 61, 63], oflitOk (oflit n [] []) n.toNat = true) ∧
    ((asking 256).edge.asks.find? fun z => z.core / 16 == 16 + 0 && z.flit.tag == (oflit 24 [] []).tag && z.answer.isNone) = some (ask 256) ∧
    (bare .f).edge.asks = [] ∧
    (let s := { asking 256 with cores := [(256, { Core.zero with owner := some 0 })] }
     256 ∉ s.edge.inReset ∧ (s.core 256).owner.isSome = true ∧ (s.core 256).mode = .tile ∧ (s.core 256).stopped = none) ∧
    (match (bare .f).queueWork 256 ⟨0, 0, 0, [], 0, 0⟩ with | .inl c => c == 1 | .inr _ => false) = true ∧
    (match (let s := withChild .w; { s with cores := [(256, Core.rootReset)] } : State).queueWork 256 dropWork with | .inr (some _, _) => true | _ => false) = true ∧
    (let x := oflit 57 [] [0, 0, 0, 0, 0, 0, 0, 7]
     3 < esCount x ∧ esCount (oflit 57 [] []) ≤ 1 ∧ esAddr (oflit 57 [] []) % 16 = 0 ∧ esAddr (oflit 57 [] [0, 0, 0, 0, 0, 0, 0, 0, 1]) % 16 ≠ 0) ∧
    (withGroup ⟨0, [], false, none, []⟩).linkGroup 0 0 = some ⟨0, [], false, none, []⟩ ∧ (withGroup ⟨0, [], false, none, []⟩).edge.asks = [] ∧
    (256 + 16 * 0 + (oflit 57 [] []).ch.toNat / 4 ∉ (bare .f).edge.inReset ∧ 256 + 16 * 0 + (oflit 57 [] []).ch.toNat / 4 = 256) ∧
    ((owner0 .f).ownsSectors 0 1024 1 = true ∧ (owner0 .f).ownsSectors 1 1024 1 = false ∧ (owner0 .f).dramBytes = 412316860416) ∧
    (let s := { asking 256 with cores := [(256, { Core.zero with owner := some 0 })] }; (s.core (ask 256).core).mode = .tile ∧ (ask 256).core < 768) ∧
    (∀ c ∈ [1, 2, 3, 5, 7], c ≠ 4 ∧ c ≠ 6) := by decide +kernel

theorem test_meets_FlashAndPower :
    (2 ^ 44 < 2 ^ 44 + 1 ∧ diesOf 0 16 = [0] ∧ (bare .f).edge.diesLost = [] ∧ (bare .f).badSector flashBase 16 = false ∧ (bare .f).plain) ∧
    (let s := bare .f
     let t := { s with edge := { s.edge with ident := [], diesLost := [1] } }
     s.capOk 0 = true ∧ t.capOk 0 = false ∧ 1 ∈ t.edge.diesLost ∧ diesOf 1048576 16 = [1]) ∧
    ((bare .f).badSector (flashBase + 0) 16 = false ∧ ({ bare .f with memory := { (bare .f).memory with badUnits := [0] } } : State).badSector (flashBase + 0) 16 = true) ∧
    (let f := flit 1 1024 []
     f.rsv = 0 ∧ f.dst.toNat = ((bare .f).rootCsr 592).toNat % 2 ^ 21 ∧ f.src.toNat = ((bare .f).rootCsr 592).toNat % 2 ^ 21 ∧ f.kind.toNat ∈ [1, 2, 3, 4, 7] ∧
     f.addr.toNat % 16 = 0 ∧ (flit 5 0 []).kind.toNat ∉ [1, 2, 3, 4, 7]) ∧
    ((asking 512).edge.asks.find? fun z => z.core == 512 && z.flit.tag == 0 && z.answer.isNone) = some (ask 512) ∧
    (match (bare .f).queueWork 512 ⟨0, 0, 0, [], 0, 0⟩ with | .inl c => c == 1 | .inr _ => false) = true ∧
    (match (let s := withChild .w; { s with cores := [(512, Core.rootReset)] } : State).queueWork 512 dropWork with | .inr (some _, _) => true | _ => false) = true ∧
    ((1 : BitVec 4).getLsbD 0 = true ∧ 512 ∉ (bare .f).edge.inReset) ∧
    (let s := { bare .f with cores := [(512, { Core.zero with owner := some 0 })] }
     (s.core 512).owner.isSome = true ∧ (s.core 512).mode = .tile ∧ (s.core 512).stopped = none) ∧
    ((bare .f).edge.meas = [] ∧ ((bare .f).part 0).meas = []) := by
  unfold State.plain; decide +kernel

/-- An image without a signature is refused, whatever the fused values are. An image that is accepted cannot be shown: the digest of the
vendor's key is fused into the module and the specification does not give it. -/
theorem test_meets_FlashAndPower_refused : imageAccepted [] [] [] 0 = false := by
  have h : edVerify [] (bytesOfNat 8 (0 : Word).toNat ++ []) [] = false := by decide +kernel
  unfold imageAccepted
  rw [h, Bool.and_false, Bool.false_and]

theorem test_meets_HomeSlicesServeRequests_delta :
    (served id).resolveAs .tile 0 .both [(544, 32)] = .ok [[(544, 32)]] ∧ (served id).ordinary (544, 32) ∧ (served id).plain ∧
    (served id).flashHeld [(544, 32)] = false ∧ (served id).memory.shadows = [] ∧
    (match (tile .f).resolveAs .tile 0 .both [(544, 32)] with | .error (.trap _) => true | _ => false) = true ∧
    (match flashless.serveDelta 0 0 0 5 with | .error (.wait _) => true | _ => false) = true ∧ (Asker.berast (flit 7 0 [])).again.isSome = true := by
  refine ⟨by decide +kernel, by unfold State.ordinary; decide +kernel, by unfold State.plain; decide +kernel, ?_⟩
  decide +kernel

/-- A launch of partition 0 in its communication step has named window0; the partition's endpoint key is 0. -/
def stepping : State :=
  let s := served fun l => { l with phase := .comm, wins := [window0] }
  s.setRootCsr 608 65536

/-- A piece of a merged result whose first element is 1 and whose others have no contribution. -/
def oneTerm (addr : BitVec 40) : Flit := flit 37 addr ([0, 0, 128, 63] ++ (List.range 27).flatMap fun _ => [0, 0, 0, 128])

theorem test_meets_BerastFlits_merged :
    (let y : Gathered := ⟨.merged, 0, 8192, .f32, 0, padTo 112 (oneTerm 8192).payload⟩
     stepping.flitTaken (oneTerm 8192) 37 = true ∧ stepping.partOfKey (oneTerm 8192).key = some 0 ∧ y.terms = [(8192, 0x3F800000)] ∧
     stepping.ownsDram 0 8192 = true ∧ stepping.knowsWindow 0 y = true ∧ stepping.inStep 0 = true ∧
     keyed.knowsWindow 0 y = false ∧ keyed.inStep 0 = false ∧ keyed.ownsDram 0 8192 = true ∧ keyed.flitTaken (oneTerm 8192) 37 = true ∧ keyed.plain) ∧
    ((oneTerm 8192).tag ≠ 4095 ∧ { oneTerm 8192 with tag := 4095 }.tag = 4095 ∧ { oneTerm 8192 with nsec := 4 }.nsec.getLsbD 2 = true) ∧
    (bare .f).ownsDram 0 8192 = false := by
  refine ⟨?_, by decide +kernel, by decide +kernel⟩
  and_intros
  all_goals decide +kernel

/-- A break flit of an earlier opening of a ring, and one of this opening; ports on which a ring has sent. -/
theorem test_meets_BerastFlits_break :
    (let x := { flit 6 (7 * 2 ^ 24 + 65472) (bytesOfNat 8 4) with src := 5 }
     let r := { ring 2 with members := [(0, 0), (5, 1)], rid := 7, t0 := 4 }
     (joined r).ringOf 0 = some r ∧ r.rid = field x.addr.toNat 24 16 ∧ (joined r).taskPart 0 = 0 ∧ (∃ m ∈ r.members, m.1 = x.src.toNat % 512) ∧
     natOfBytes (x.payload.take 8) < { r with t0 := 5 }.t0.toNat ∧ r.t0.toNat ≤ natOfBytes (x.payload.take 8) ∧
     ((joined r).sched.tasks.map (fun y => y.1)).Nodup ∧ (joined r).flitTaken x 6 = true ∧ 3 ∉ r.ports) := by decide +kernel

/-- Late data of a sector that L2 does not hold: what the stack holds, and what it does not hold. -/
theorem test_meets_OszinSectorMessages_late :
    let zeros : List Byte := List.replicate 16 0
    let ones : List Byte := List.replicate 16 1
    let check (d : List Byte) : List Byte := (codeCheck 0 d).map fun c => BitVec.ofNat 8 c
    (bare .f).holds 0 zeros (check zeros) = true ∧ (bare .f).holds 0 ones (check ones) = false ∧
    checkSector 0 ones ((check ones).map BitVec.toNat) ≠ .bad ∧ 0 / 128 ∉ (bare .f).memory.lines ∧ oszinSectors 0 (oflit 33 [] [0]) = [0] ∧
    oflitOk (oflit 33 [] [0]) 33 = true := by decide +kernel

/-- Rows that the stacks do not have, a lost stack, and a sequencer in a reset. -/
theorem test_meets_OszinGroupsTablesAndBlocks_absent :
    (bare .f).bankRows = 8192 ∧ rowNum (rowKey 0 0 0 16384) = 16384 ∧ rowNum (rowKey 0 0 0 8191) < (bare .f).bankRows ∧
    0 ∈ ((bare .f).setEdge { (bare .f).edge with stacksLost := [0] }).edge.stacksLost ∧ 0 ∉ (bare .f).edge.stacksLost ∧
    (codedUnit 256 = true ∧ codedUnit 448 = false ∧ (⟨0, [⟨rowKey 0 0 0 0, none⟩], false, none, []⟩ : Group).usesSlice (256 - 256) = true) := by
  decide +kernel

/-- A task with an open group at stack 0, which an error of code 3 or 5 concerns. -/
theorem test_meets_OszinEngineMessages_group :
    let s := (tile .f).setTask 0 { Task.start 0 0 0 with group := some ⟨0, [], false, some 0, []⟩ }
    s.linkGroup 0 0 = none ∧ s.edge.asks = [] ∧ (s.sched.tasks.map (fun z => z.1)).Nodup ∧
    (∃ z ∈ s.sched.tasks, z.2.group = some ⟨0, [], false, some 0, []⟩) := by decide +kernel

/-- The tier holds no port page, and an image of no bytes stands in an empty boot area. -/
theorem test_meets_FlashAndPower_rest :
    (bare .f).portOver (flashBase + 0) 16 = false ∧ (bare .f).edge.boot.slice 0 0 0 = [] := by decide +kernel

/-! ### More clauses: what fails to be read, what waits, and what a link brings -/

/-- The sector of byte 0 is uncorrectable. -/
def State.tornAt (s : State) (k : Nat) : State := s.setMemory { s.memory with check := [(k, 2 ^ 32 + 2 ^ 31)] }

/-- Control cores 0 and 1 whose firmware has nothing under way. -/
theorem test_meets_CsrInstructionsReadAndWriteTheirOwnCopy_quiet :
    let s := (bare .f).withReg 1 257
    s.firmwareQuiet (768 + wField (s.rootCsr 560) 0 5) ∧ s.firmwareQuiet (768 + wField (s.rd 1) 0 5) ∧ s.rd 1 ≠ s.rootCsr 560 ∧ csrFieldsOk 560 (s.rd 1) = true ∧
    s.cur ≠ 768 + wField (s.rootCsr 560) 0 5 ∧ s.cur ≠ 768 + wField (s.rd 1) 0 5 := by
  unfold State.firmwareQuiet; decide +kernel

/-- A task that has made no report before its next HOP. -/
theorem test_meets_EnginesMeet_hops :
    (Task.start 0 0 0).hops.getD (Task.start 0 0 0).hop (Task.start 0 0 0).reports = [] ∧ (rootWith tileCore).edge.ctx = [] := by decide +kernel

/-- The word at the root core's pc has had no other value. -/
theorem test_meets_AStepRunsTheDecodedInstruction_once : atHalt.formerWords 0 = [] ∧ atHalt.movers.copies = [] := by decide +kernel

/-- V rounds down; v_2 holds 1, an infinity and 0, v_3 holds -1, 1 and an infinity: the sum of 1 and -1 is -0, and a NaN comes of 0 times an
infinity and a number (R189, R193). -/
theorem test_meets_VectorElementResults_values :
    let s := (small .v).setMe { (small .v).me with
      csr := (small .v).me.csr.put 0 535 4
      vreg := [(2048, 0x3F800000), (2049, 0x7F800000), (3072, 0xBF800000), (3073, 0x3F800000), (3074, 0x7F800000)] }
    let lane (i : Instr) (k : Nat) : Option Nat := match exec i s with | .next w => some (vlane w.me 1 0 k) | _ => none
    wField (s.me.getC .v 23) 0 3 = 4 ∧ (vw 1 2 3 .f32).rm.val = 0 ∧ Ty.isF .f32 = true ∧ (valOf .f32 0x3F800000).isNan = false ∧
    [lane (.vadd (vw 1 2 3 .f32)) 0, lane (.vadd (vw 1 2 3 .f32)) 1, lane (.vsub (vw 1 2 3 .f32)) 2, lane (.vfma { vw 1 2 3 .f32 with c := 2 }) 2] =
      [some 0x80000000, some 0x7F800000, some 0xFF800000, some 0x7FC00000] := by decide +kernel

/-- An engine that awaits a part, M at a slab elsewhere, and units without an uncorrectable word. -/
theorem test_meets_MatrixInstructionsRetire_clean : (small .m).edge.sramErr = [] ∧ (splitAt 5).edge.sramErr = [] := by decide +kernel

/-- A bank whose former contents are kept, and one that is not. -/
theorem test_meets_CopiesPrefetchesAndFences_staged :
    (small .f).me.staged = none ∧ ({ (small .f).me with staged := some [(0, 1)] } : Core).sourceOf 0 ≠ (small .f).me ∧
    (rich .f).memory.check = [] ∧ (rich .f).memory.clrRows = [] := by decide +kernel

/-- Segments that meet no port page. -/
theorem test_meets_CommandsAreQueued_noPort :
    ((rich .w).portAccess [(8192, 64)] = .ok () ∧ (rich .w).portFault [(8192, 64)] = .ok ()) := by decide +kernel

/-- An arrival that completes the phase: one of two has come, and none waits; and a record that cannot be read. -/
theorem test_meets_BarriersCountAndWait_completing :
    let a := barrierAt 0 0
    let u := (withBarrier .w).writeNum (a + 20) 4 1
    u.barC a = 2 ∧ u.barN a = 5 ∧ u.barCount a 5 + 1 = u.barC a ∧ u.barCount a 6 < u.barC a ∧ u.memory.arrivals = [] ∧ u.memory.waits = [] ∧
    u.plain ∧ u.portOver a 64 = false ∧ u.logNext = .act ∧ u.me.wBar = .idle ∧ (∀ c ∈ u.cores, c.2.fBar = .idle) ∧
    (u.tornAt (a / 16)).badSector a 64 = true := by
  and_intros
  all_goals decide +kernel

/-- A region whose address has a valid translation, and an address without one. -/
theorem test_meets_ShadowRegionsOpenAndPublish_address :
    (owner0 .w).resolve .none [(0, 1)] = .ok [[(0, 1)]] ∧
    (match (tile .w).resolve .none [(0, 1)] with | .error (.trap _) => true | _ => false) = true := by decide +kernel

/-- Nodes that cannot be named: a number past NCAP, an unused one, one of a tree that does not exist or cannot be read; the ends of REF. -/
theorem test_meets_StarterInstructionsActOnTheirTree_refused :
    let s := withChild .w
    let tr := treeAt 0 0
    let at_ (r : Nat) : State := s.putNode tr 1 { s.node tr 1 with ref := r }
    (s.nodeCap tr = 4 ∧ (s.node tr 2).used = false ∧ s.created (treeAt 0 1) = false ∧ s.plain ∧ s.treeTorn tr = false) ∧
    ((at_ (2 ^ 32 - 1)).node tr 1).ref = 2 ^ 32 - 1 ∧ ((at_ 5).node tr 1).ref = 5 ∧ (s.node tr 1).ref < 2 ^ 32 - 1 ∧
    ((s.tornAt (tr / 16)).badSector tr 64 = true ∧ (s.tornAt ((tr + 1048576 + 128) / 16)).badNode tr 1 = true ∧
      (s.tornAt (tr / 16)).treeTorn tr = true) := by
  and_intros
  all_goals decide +kernel

/-- The launch's communication step has run one command of the superstep that a task has left; a limit that has run out while a pre-emption waits. -/
theorem test_meets_LaunchEvents_ran :
    (let s := served fun l => { l with phase := .comm, ran := some (0, 0, 1), cmds := [⟨0, 0, 0, .copy (.pad 0 0) (.pad 0 64) 8⟩, ⟨0, 0, 2, .copy (.pad 0 0) (.pad 0 64) 8⟩] }
     (s.launch 0).map (fun l => (l.spanning, l.cmds.length)) = some ([], 2)) ∧
    (let s := served fun l => { l with preempt := .pending }
     s.edge.sramErr = [] ∧ s.memory.check = [] ∧ launch0.ended.length ≠ launch0.n ∧ launch0.moving = []) ∧
    (served fun l => { l with phase := .comm }).tornPad 0 0 8 = false := by decide +kernel

/-- A unit without an uncorrectable word, and a slab that is whole. -/
theorem test_meets_HandOverEvents_clean :
    (served id).tornWord 0 = false ∧ (served id).memory.check = [] ∧ (splitAt 5).tornSlab 5 0 = false ∧ (splitAt 5).memory.check = [] := by decide +kernel

/-- A partition record and a port slot table in an uncorrectable sector, and in good ones. -/
theorem test_meets_PartitionEvents_torn :
    ((bare .f).tornAt 4).badSector (wField 64 6 46 * 64) 64 = true ∧ (bare .f).badSector (wField 64 6 46 * 64) 64 = false ∧
    ((bare .f).tornAt 4).badSector ((bare .f).rootCsr 595).toNat 2304 = true ∧ (bare .f).plain ∧
    (bare .f).portOver ((bare .f).rootCsr 595).toNat 2304 = false := by
  and_intros
  all_goals decide +kernel

/-- A successor on another module to which no port leads; one here that stands in another ring, in a ring of another shape, or in none. -/
theorem test_meets_ChurnSendsAndTimeouts_elsewhere :
    (let r := { ring 2 with members := [(0, 0), (5, 1)] }; (ringed r).routed r.succ.1 = false ∧ (ringed r).memberTask 0 r.succ = none) ∧
    (∀ f ∈ [fun y : Ring => { y with rid := 9 }, fun y => { y with slots := 4 }],
      let r := ring 2
      let s := (ringed r).setRing 1 (some (f { r with me := 1 }))
      s.memberTask 0 r.succ = some 1 ∧ (f { r with me := 1 }).broken = false ∧ (f { r with me := 1 }).t0 = r.t0 ∧ r.sent = 0 ∧ s.openLate 0 r = false ∧
        ((f { r with me := 1 }).rid ≠ r.rid ∨ (f { r with me := 1 }).shape ≠ r.shape)) ∧
    (let r := ring 2
     let s := (ringed r).setRing 1 (some { r with me := 1, t0 := 9 })
     s.ringOf 1 = some { r with me := 1, t0 := 9 } ∧ (9 : Word) ≠ r.t0 ∧ ¬r.t0.toNat + 16 * r.period.toNat < s.ccnt.toNat ∧
       { r with period := 0 }.t0.toNat + 16 * { r with period := 0 }.period.toNat < ({ s with ccnt := 1 } : State).ccnt.toNat) ∧
    (let r := { ring 3 with sent := 1, got := [(0, 128)] }
     let s : State := { (ringed r).setRing 1 none with ccnt := r.t0 + r.period }
     s.ringOf 1 = none ∧ r.sent ≠ 0 ∧ r.arrived 0 = true ∧ r.t0.toNat + r.sent * r.period.toNat ≤ s.ccnt.toNat ∧ r.sent + 2 ≤ r.n ∧
       s.memberTask 0 r.succ = some 1) := by
  and_intros
  all_goals decide +kernel

/-- A wait at a barrier whose record cannot be read. -/
theorem test_meets_HomeSlicesServeRequests_torn :
    let a := barrierAt 0 0
    let s := (withBarrier .f).tornAt (a / 16)
    (s.tookOwn a 64).badSector a 64 = true ∧ (withBarrier .f).plain := by
  and_intros
  all_goals decide +kernel

/-- An ERR of code 3 for a window that no launch here has named: the partition runs one launch, or none. -/
theorem test_meets_BerastFlits_lost :
    let x := flit 62 1024 [3]
    let s := (served id).setRootCsr 608 65536
    s.flitTaken x 62 = true ∧ x.payload.headD 0 = 3 ∧ s.partOfKey x.key = some 0 ∧ s.knowsWindow 0 ⟨.lost, 0, 1024, .f32, 0, padTo 112 x.payload⟩ = false ∧
    s.running 0 = [0] ∧ keyed.running 0 = [] ∧ keyed.partOfKey x.key = some 0 ∧ s.task (0 * 256) = some (Task.start 0 0 0) ∧
    s.launch (Task.start 0 0 0).launch = some launch0 := by
  and_intros
  all_goals decide +kernel

/-- A task with an open group on stack 0 and an engine under way, either of which an error of code 3 or 5 ends. -/
theorem test_meets_OszinEngineMessages_either :
    let s := (tile .f).setTask 0 { Task.start 0 0 0 with group := some ⟨0, [], false, some 0, []⟩ }
    s.linkGroup 0 0 = none ∧ s.atInstruction 0 .f = true ∧ (s.sched.tasks.map (fun z => z.1)).Nodup := by decide +kernel

end Sys2Proof.Machine
end

section
/-! PROOFS. PCHK and its check word (R76). -/

namespace Sys2Proof.Machine

/-- The alignment of R74 from the width alone. -/
theorem WCode.align_eq (wc : WCode) :
    WCode.align wc = if WCode.bits wc = 3 ∨ WCode.bits wc = 6 then 32 else WCode.bits wc := by
  cases wc <;> rfl

/-- Four flags in four different bits: their sum is their bitwise OR. -/
theorem wOf_flags_eq_or (p q r t : Prop) [Decidable p] [Decidable q] [Decidable r] [Decidable t] :
    wOf ((if p then 1 else 0) + (if q then 2 else 0) + (if r then 4 else 0) + (if t then 8 else 0)) =
      (if p then 1#64 else 0) ||| (if q then 2#64 else 0) ||| (if r then 4#64 else 0) ||| (if t then 8#64 else 0) := by
  split_ifs <;> decide

theorem checkWord_eq_or (wc : WCode) (a b : Word) :
    checkWord wc a b =
      (if b.toNat % WCode.align wc = 0 ∧ (a - b).toInt % WCode.bits wc = 0 then 1#64 else 0) |||
      (if a.toNat / 128 ≠ (a.toNat + WCode.bits wc - 1) / 128 then 2#64 else 0) |||
      (if a.toNat / 2 ^ 19 ≠ (a.toNat + WCode.bits wc - 1) / 2 ^ 19 then 4#64 else 0) |||
      (if 2 ^ 58 ≤ a.toNat then 8#64 else 0) := by
  rw [← wOf_flags_eq_or]
  simp only [checkWord, Bool.and_eq_true, beq_iff_eq, Nat.reducePow]

theorem exec_pchk (wc : WCode) (d a b : Reg) (s : State) :
    exec (.pchk wc d a b) s = .next (s.finishX 1 d (checkWord wc (s.rd a) (s.rd b))) := rfl

/-- Settles O3: the model's sum of the four flags is the OR of R76, since the flags stand in different bits. -/
theorem pchkWritesTheCheckWord : Obligations.PchkWritesTheCheckWord := by
  intro d a b wc w al
  have hw : w = WCode.bits wc := rfl
  have hal : al = WCode.align wc := (WCode.align_eq wc).symm
  refine computes_of fun s => ?_
  rw [exec_pchk, checkWord_eq_or, ← hal, ← hw]

end Sys2Proof.Machine
end

section
/-! PROOFS. Where an X instruction leaves its engine: branches and fall-through as one move of a core (R33, R77). -/

namespace Sys2Proof.Machine

@[simp] theorem Quad.set_set {α : Type} (q : Quad α) (e : Eng) (x y : α) : (q.set e x).set e y = q.set e y := by
  cases e <;> rfl

/-- Core c after engine e has passed n words and goes on at address a. -/
def Core.goTo (c : Core) (e : Eng) (n : Nat) (a : Word) : Core :=
  { c with pc := c.pc.set e a, pass := c.pass.set e (c.pass.get e + wOf n) }

theorem State.jump_eq_goTo (s : State) (n : Nat) (a : Word) : s.jump n a = s.setMe (s.me.goTo s.eng n a) := by
  simp only [State.jump, Core.pass!, Core.goTo, Quad.set_set]

/-- Passing on to the next word is a jump to its address. -/
theorem State.passX_eq_jump (s : State) (n : Nat) : s.passX n = s.jump n (s.me.pc.get s.eng + wOf (32 * n)) := by
  rw [State.jump_eq_goTo]; rfl

/-- A core that has kept its place and its faults so far has moved on from there (R33). -/
theorem Core.movedOn_goTo {c d : Core} (hpc : d.pc = c.pc) (hpass : d.pass = c.pass) (hstop : d.stopped = c.stopped)
    (e : Eng) (n : Nat) (a : Word) : c.movedOn (d.goTo e n a) e a n := by
  refine ⟨fun x => ?_, fun x => ?_, hstop⟩
  · rw [Core.goTo, Quad.get_set, hpc]
  · rw [Core.goTo, Quad.get_set, hpass]
    split
    · next h => rw [h]
    · rfl

end Sys2Proof.Machine
end

section
/-! PROOFS. LOOPK: its words, its counters, the register base and the stage predicates (R81). -/

namespace Sys2Proof.Machine

/-! ### The words -/

/-- An X long word with OP 0x06 passes every check of R40 but that of its 18 low bits. -/
theorem decodeWords_loopk (low : Nat) (imm : BitVec 25) (hl : low < 2 ^ 18) :
    decodeWords (2 ^ 24 + 6 * 2 ^ 18 + low) (6 * 2 ^ 25 + imm.toNat) =
      if low = 0 then .ok (.loopk imm) else .error .reservedField := by
  have hi := imm.isLt
  have htag : engTag (2 ^ 24 + 6 * 2 ^ 18 + low) = 0 := by rw [engTag]; omega
  have htok : (2 ^ 24 + 6 * 2 ^ 18 + low) / 268435456 % 16 = 0 := by omega
  have hlong : (2 ^ 24 + 6 * 2 ^ 18 + low) / 16777216 % 2 = 1 := by omega
  have hcont : (6 * 2 ^ 25 + imm.toNat) / 33554432 % 128 = 6 := by omega
  have hop : (2 ^ 24 + 6 * 2 ^ 18 + low) / 262144 % 64 = 6 := by omega
  have hlow : (2 ^ 24 + 6 * 2 ^ 18 + low) % 262144 = low := by omega
  have himm : BitVec.ofNat 25 ((6 * 2 ^ 25 + imm.toNat) % 33554432) = imm := by
    rw [show (6 * 2 ^ 25 + imm.toNat) % 33554432 = imm.toNat by omega, BitVec.ofNat_toNat, BitVec.setWidth_eq]
  simp only [decodeWords, htag, htok, hlong, hcont, hop, decodeLong, hlow, himm]
  by_cases h : low = 0 <;> simp [h, Dec.when, finish, Instr.wf]

/-! ### Stage predicates -/

/-- The shift of R81, row by row: p8 is filled, each stage predicate above it takes the value of the one below. -/
theorem Core.prow_shiftStages (c : Core) (fill : Bool) (p i : Nat) (hp : p < 16) (hi : i < 16) :
    (c.shiftStages fill).prow p i =
      if p < 8 then c.prow p i else if p = 8 then (if fill then 2 ^ 64 - 1 else 0) else c.prow (p - 1) i := by
  simp only [Core.prow, Core.shiftStages, Sparse.get_splice, List.length_append, List.length_replicate, Sparse.slice_length]
  rcases Nat.lt_trichotomy p 8 with h | rfl | h
  · rw [if_neg (show ¬(128 ≤ 16 * p + i ∧ 16 * p + i < 128 + (16 + 112)) by omega), if_pos h]
  · rw [if_pos (show 128 ≤ 16 * 8 + i ∧ 16 * 8 + i < 128 + (16 + 112) by omega),
      List.getD_append _ _ _ _ (by rw [List.length_replicate]; omega), List.getD_replicate _ (by omega)]
    cases fill <;> rfl
  · rw [if_pos (show 128 ≤ 16 * p + i ∧ 16 * p + i < 128 + (16 + 112) by omega),
      List.getD_append_right _ _ _ _ (by rw [List.length_replicate]; omega), List.length_replicate,
      Sparse.slice_getD _ _ _ _ _ _ (by omega), show 128 + (16 * p + i - 128 - 16) = 16 * (p - 1) + i by omega]
    simp only [show p ≠ 0 by omega, show p - 1 ≠ 0 by omega, show ¬p < 8 by omega, show p ≠ 8 by omega, if_false]

/-! ### Counters and register base -/

/-- One down in the low four bits, by the model's sum and by subtraction (R81). -/
theorem wOf_base_sub_one (x : Word) : wOf (x.toNat % 16 + 15) &&& 15 = (x - 1) &&& 15 := by
  have and15 (y : Word) : (y &&& 15).toNat = y.toNat % 16 := by
    rw [BitVec.toNat_and]; exact Nat.and_two_pow_sub_one_eq_mod y.toNat 4
  apply BitVec.eq_of_toNat_eq
  rw [and15, and15, wOf, BitVec.toNat_ofNat, BitVec.toNat_sub, show (1 : Word).toNat = 1 from rfl]
  omega

/-- Core c after one pass is counted in engine e's copy: LC falls where it is not 0, else EC. -/
def Core.countPass (c : Core) (e : Eng) : Core :=
  if c.getC e 19 != 0 then c.setC e 19 (c.getC e 19 - 1)
  else c.setC e 20 (if 1 < (c.getC e 20).toNat then c.getC e 20 - 1 else 0)

theorem Core.getC_countPass (c : Core) (e e' : Eng) (k : Nat) (hk : k < 256) :
    (c.countPass e).getC e' k =
      if e' = e ∧ k = 19 then (if c.getC e 19 ≠ 0 then c.getC e 19 - 1 else c.getC e 19)
      else if e' = e ∧ k = 20 then
        (if c.getC e 19 ≠ 0 then c.getC e 20 else if 1 < (c.getC e 20).toNat then c.getC e 20 - 1 else 0)
      else c.getC e' k := by
  by_cases hlc : c.getC e 19 = 0
  · rw [Core.countPass, if_neg (by simp [hlc]), Core.getC_setC _ _ _ _ _ _ (by decide) hk]
    split_ifs <;> simp_all
  · rw [Core.countPass, if_pos (by simpa using hlc), Core.getC_setC _ _ _ _ _ _ (by decide) hk]
    split_ifs <;> simp_all

/-- Core c after LOOPK in engine e, still at its word: the counted pass, the register base, and for V the stage predicates. -/
def Core.advanceLoop (c : Core) (e : Eng) : Core :=
  let d := c.countPass e
  let d := d.setC e 18 (wOf ((d.getC e 18).toNat % 16 + 15) &&& 15)
  if e = Eng.v then d.shiftStages (c.getC e 19 != 0) else d

/-- LOOPK writes CSRs and stage predicates of its core, and nothing else. -/
theorem Core.advanceLoop_frame (c : Core) (e : Eng) : { c.advanceLoop e with csr := c.csr, pred := c.pred } = c := by
  simp only [Core.advanceLoop, Core.countPass, Core.shiftStages, Core.setC]
  split_ifs <;> rfl

theorem Core.advanceLoop_pc (c : Core) (e : Eng) : (c.advanceLoop e).pc = c.pc := (congrArg Core.pc (c.advanceLoop_frame e) :)
theorem Core.advanceLoop_pass (c : Core) (e : Eng) : (c.advanceLoop e).pass = c.pass :=
  (congrArg Core.pass (c.advanceLoop_frame e) :)
theorem Core.advanceLoop_stopped (c : Core) (e : Eng) : (c.advanceLoop e).stopped = c.stopped :=
  (congrArg Core.stopped (c.advanceLoop_frame e) :)

theorem Core.getC_advanceLoop (c : Core) (e e' : Eng) (k : Nat) (hk : k < 256) :
    (c.advanceLoop e).getC e' k =
      if e' = e ∧ k = 18 then (c.getC e 18 - 1) &&& 15 else (c.countPass e).getC e' k := by
  have hbase : (c.countPass e).getC e 18 = c.getC e 18 := by simp [Core.getC_countPass]
  have hset := Core.getC_setC (c.countPass e) e e' 18 k ((c.getC e 18 - 1) &&& 15) (by decide) hk
  rw [Core.advanceLoop, hbase, wOf_base_sub_one]
  split <;> exact hset

theorem Core.prow_advanceLoop (c : Core) (e : Eng) (p i : Nat) (hp : p < 16) (hi : i < 16) :
    (c.advanceLoop e).prow p i =
      if e ≠ .v ∨ p < 8 then c.prow p i
      else if p = 8 then (if c.getC e 19 ≠ 0 then 2 ^ 64 - 1 else 0) else c.prow (p - 1) i := by
  have hpred (v : Word) (q : Nat) : ((c.countPass e).setC e 18 v).prow q i = c.prow q i := by
    simp only [Core.prow, Core.countPass, Core.setC]; split_ifs <;> rfl
  rw [Core.advanceLoop]
  by_cases he : e = .v
  · rw [if_pos he, Core.prow_shiftStages _ _ p i hp hi, hpred, hpred]
    simp only [he, ne_eq, not_true_eq_false, false_or, bne_iff_ne]
  · rw [if_neg he, hpred, if_pos (Or.inl he)]

/-! ### Execution -/

/-- LOOPK advances the loop of its core and goes on at its target or at the next word (R81). -/
theorem exec_loopk (imm : BitVec 25) (s : State) :
    exec (.loopk imm) s = .next ((s.setMe (s.me.advanceLoop s.eng)).jump 2
      (if s.me.getC s.eng 19 ≠ 0 ∨ 1 < (s.me.getC s.eng 20).toNat then branchTarget s imm else s.me.pc.get s.eng + 64)) := by
  have hexec : exec (.loopk imm) s = .next (
      if (s.me.getC s.eng 19 != 0) || decide (1 < (s.me.getC s.eng 20).toNat) then
        (s.setMe (s.me.advanceLoop s.eng)).jump 2 ((s.setMe (s.me.advanceLoop s.eng)).target imm)
      else (s.setMe (s.me.advanceLoop s.eng)).passX 2) := rfl
  rw [hexec, State.passX_eq_jump, State.target, State.me_setMe, State.setMe_eng, Core.advanceLoop_pc]
  simp only [Bool.or_eq_true, bne_iff_ne, decide_eq_true_eq]
  split <;> rfl

/-- Settles O5, from the words of LOOPK, its execution, and what advancing the loop does to each CSR and predicate. -/
theorem loopkAdvancesThePipelinedLoop : Obligations.LoopkAdvancesThePipelinedLoop := by
  intro s imm
  refine ⟨decodeWords_loopk 0 imm (by decide), fun low h0 hl => ?_, _, exec_loopk imm s, ?_⟩
  · rw [decodeWords_loopk low imm hl, if_neg (by omega)]
  have hframe := s.me.advanceLoop_frame s.eng
  have hcsr (e : Eng) (k : Nat) (hk : k < 256) := s.me.getC_advanceLoop s.eng e k hk
  rw [State.jump_eq_goTo, State.me_setMe, State.me_setMe, State.setMe_eng]
  refine ⟨?_, ?_, ?_, ?_, fun e k hk hne => ?_, fun p i hp hi => s.me.prow_advanceLoop s.eng p i hp hi, ?_, ?_⟩
  · exact Core.movedOn_goTo (s.me.advanceLoop_pc _) (s.me.advanceLoop_pass _) (s.me.advanceLoop_stopped _) ..
  · exact (hcsr s.eng 19 (by decide)).trans (by simp [Core.getC_countPass])
  · exact (hcsr s.eng 20 (by decide)).trans (by simp [Core.getC_countPass])
  · exact (hcsr s.eng 18 (by decide)).trans (by simp)
  · refine (hcsr e k hk).trans ?_
    rw [Core.getC_countPass _ _ _ _ hk, if_neg (by tauto), if_neg (by tauto), if_neg (by tauto)]
  · simpa only [Core.goTo, Core.advanceLoop_pc, Core.advanceLoop_pass] using hframe
  · exact State.onlyCore_of rfl fun k hk => by simp only [State.core_setMe, State.setMe_cur, if_neg hk]

end Sys2Proof.Machine
end
